-- ==== Sys2Proof/Word.lean ====
section
/-! DEFINITION. The words of the PDC (00_scope.md R9, R12, R17): one 32-bit word carries a `u32` or a
binary32 value; an instance number is eight bits; the two modifiers are four bits each. -/

namespace Sys2Proof

/-- A 32-bit word (R9). As an integer it is a `u32`, whose arithmetic is modulo 2^32 (R17). -/
abbrev Word := BitVec 32

/-- One IEEE 754 binary32 value carried in one word (R12); every bit pattern is legal (R93). -/
abbrev F32 := BitVec 32

/-- An instance number, the INST field of a command word (R90). -/
abbrev Inst := BitVec 8

end Sys2Proof
end

