-- ==== Sys2Proof/Config.lean ====
section
/-! DEFINITION. The configuration of a PDC: the implementation parameters, which a model takes as an
argument (00_scope.md R8, R18), and the free values, which the specification leaves open (R13, R16;
93_implementation_defined.md U1, U3) and which are constants without a body. -/

namespace Sys2Proof

/-! ## The implementation parameters (R8) -/

/-- A raw sextuple: numerator and denominator before normalisation (41_filter_designer.md R172). -/
structure RawCoef where
  n0 : F32
  n1 : F32
  n2 : F32
  d0 : F32
  d1 : F32
  d2 : F32
deriving DecidableEq, Repr

/-- The raw formula of one shape: from `sn`, `cs` and `Q` alone (R187). -/
abbrev RawFormula := F32 → F32 → F32 → RawCoef

/-- `FD_DESIGN`: the raw formulas of the seven implemented shapes (R8, R187, U7). -/
structure FdDesign where
  lpf1 : RawFormula
  hpf1 : RawFormula
  lpf2 : RawFormula
  hpf2 : RawFormula
  apf1 : RawFormula
  apf2 : RawFormula
  bpf  : RawFormula

/-- The parameters of one PDC (R8, U5 to U7) with their bounds. `FDN_LINES` and `FMT` are fixed for
every PDC; `TRANS` is the free constants of `Config` below. -/
structure Params where
  /-- `N_RB`, the number of ring-buffer instances. -/
  nRB : Nat
  /-- `N_FD`, the number of filter-designer instances. -/
  nFD : Nat
  /-- `N_OSC`, the number of oscillator instances. -/
  nOSC : Nat
  /-- `N_SM`, the number of smoother instances. -/
  nSM : Nat
  /-- `N_FDN`, the number of FDN instances. -/
  nFDN : Nat
  /-- `CAP_LOG2_MAX`, log2 of the largest ring-buffer capacity. -/
  capLog2Max : Nat
  /-- `OSC_PHASE_WRAP`: whether the oscillator phase is wrapped after each increment (R204, U6). -/
  oscPhaseWrap : Bool
  /-- `FD_DESIGN`: the coefficient formulas of the implemented shapes (R187, U7). -/
  fdDesign : FdDesign
  nRB_bounds  : 1 ≤ nRB ∧ nRB ≤ 256
  nFD_bounds  : 1 ≤ nFD ∧ nFD ≤ 256
  nOSC_bounds : 1 ≤ nOSC ∧ nOSC ≤ 256
  nSM_bounds  : 1 ≤ nSM ∧ nSM ≤ 256
  nFDN_bounds : 1 ≤ nFDN ∧ nFDN ≤ 256
  capLog2Max_bound : capLog2Max ≤ 31

/-- `CAP_MAX = 2^CAP_LOG2_MAX` (R8). -/
def Params.capMax (P : Params) : Nat := 2 ^ P.capLog2Max

/-! ## The free values -/

namespace Config

/-- The free word of the NaN produced at one place of one command: first the command's draw number
(`State.nanEpoch`), then the place within the command (R13, U1; DESIGN CHOICE, log 3: safe). -/
opaque nanDraw : Nat → Nat → Word

/-- The free words of the NaNs inside the default raw formulas, by place. No result shows them: a NaN
of a sextuple is drawn afresh where it is normalised (R13, R186, U1; DESIGN CHOICE, log 3: safe). -/
opaque designNaN : Nat → Word

/-- `TRANS.fsin` before its named properties are imposed (R16, U3; log 2: safe). -/
opaque sinRaw : F32 → F32

/-- `TRANS.fcos` before its named properties are imposed (R16, U3; log 2: safe). -/
opaque cosRaw : F32 → F32

/-- `TRANS.fasin` before its named properties are imposed (R16, U3; log 2: safe). -/
opaque asinRaw : F32 → F32

/-- `TRANS.fexp` before its named properties are imposed (R16, U3; log 2: safe). -/
opaque expRaw : F32 → F32

/-- `TRANS.fpow10` before its named properties are imposed (R16, U3; log 2: safe). -/
opaque pow10Raw : F32 → F32

end Config
end Sys2Proof
end

