-- ==== Sys2Proof/Machine/Float.lean ====
section
/-! DEFINITION. The numeric primitives on binary32 words (00_scope.md R12 to R15). Finite values are
exact integers in units of 2^-149, the least subnormal; each operation computes exactly and rounds
once, to nearest, ties to even. Every operation that can produce a NaN takes the free word `q` from
which that NaN's sign and payload come (R13, U1). -/

namespace Sys2Proof
namespace Machine

/-! ## Constants (R15) -/

def fZero : F32 := 0x00000000
def fNegZero : F32 := 0x80000000
def fOne : F32 := 0x3F800000
def fTwo : F32 := 0x40000000
def fSix : F32 := 0x40C00000
def fTwenty : F32 := 0x41A00000
def fHalf : F32 := 0x3F000000
def f001 : F32 := 0x3A83126F
def fPi : F32 := 0x40490FDB
def fTwoPi : F32 := 0x40C90FDB
def fTriK : F32 := 0x3F22F983
/-- The binary32 nearest π/2, the bound of `P_ASIN_RANGE` (R16). -/
def fHalfPi : F32 := 0x3FC90FDB
/-- 2^31, the end of the delays `split` takes apart (40_ring_buffer.md R143). -/
def fTwo31 : F32 := 0x4F000000

/-! ## Fields and classes (R12) -/

def signBit (x : F32) : Bool := x.getLsbD 31
def magBits (x : F32) : Nat := x.toNat % 2 ^ 31
def expField (x : F32) : Nat := magBits x / 2 ^ 23
def fracField (x : F32) : Nat := x.toNat % 2 ^ 23

/-- Exponent 255 with a fraction. -/
def isNaN (x : F32) : Bool := decide (0x7F800000 < magBits x)
def isInf (x : F32) : Bool := decide (magBits x = 0x7F800000)
def isZero (x : F32) : Bool := decide (magBits x = 0)
def isFinite (x : F32) : Bool := decide (magBits x < 0x7F800000)

/-- The word with this sign and these low 31 bits. -/
def withSign (neg : Bool) (mag : Nat) : F32 := BitVec.ofNat 32 (if neg then 2 ^ 31 + mag else mag)

/-- An infinity. -/
def fInf (neg : Bool) : F32 := withSign neg 0x7F800000

/-- The NaN that the free word `q` stands for: `q`'s sign and fraction, a zero fraction read as the
quiet bit. Every NaN word is one of these (R13, U1; log 3). -/
def nanOf (q : Word) : F32 :=
  withSign (signBit q) (0x7F800000 + (if fracField q = 0 then 0x400000 else fracField q))

/-! ## Exact values and rounding (R13) -/

/-- The magnitude of a finite value in units of 2^-149. -/
def ulps (x : F32) : Nat :=
  if expField x = 0 then fracField x else (2 ^ 23 + fracField x) * 2 ^ (expField x - 1)

/-- A finite value in units of 2^-149. -/
def units (x : F32) : Int := if signBit x then -(ulps x : Int) else ulps x

/-- `n / d` rounded to the nearest integer, ties to even. -/
def roundDiv (n d : Nat) : Nat :=
  if 2 * (n % d) < d then n / d
  else if 2 * (n % d) = d ∧ n / d % 2 = 0 then n / d
  else n / d + 1

/-- The binary32 of sign `neg` nearest the magnitude `n / d` units (ties to even, gradual underflow,
overflow to an infinity). With `k` the number of bits below the significand, the word's low bits
are `k * 2^23` plus the rounded significand: a significand that rounds up to 2^24 carries into the
exponent field by itself. -/
def roundUnits (neg : Bool) (n d : Nat) : F32 :=
  let whole := n / d
  let k := if whole < 2 ^ 24 then 0 else Nat.log2 whole - 23
  withSign neg (min (k * 2 ^ 23 + roundDiv n (d * 2 ^ k)) 0x7F800000)

/-! ## Arithmetic (R13) -/

/-- Sum. An exact zero sum is `+0` unless both operands are negative. -/
def fadd (q : Word) (x y : F32) : F32 :=
  if isNaN x || isNaN y then nanOf q
  else if isInf x then (if isInf y && signBit x != signBit y then nanOf q else x)
  else if isInf y then y
  else
    let n := units x + units y
    if n = 0 then (if signBit x && signBit y then fNegZero else fZero)
    else roundUnits (decide (n < 0)) n.natAbs 1

/-- Sign change (R14). -/
def fneg (x : F32) : F32 := x ^^^ 0x80000000

/-- Absolute value (R14). -/
def fabs (x : F32) : F32 := x &&& 0x7FFFFFFF

/-- Difference: the sum with the second operand's sign changed. -/
def fsub (q : Word) (x y : F32) : F32 := fadd q x (fneg y)

/-- Product. -/
def fmul (q : Word) (x y : F32) : F32 :=
  let neg := signBit x != signBit y
  if isNaN x || isNaN y then nanOf q
  else if isInf x || isInf y then (if isZero x || isZero y then nanOf q else fInf neg)
  else roundUnits neg (ulps x * ulps y) (2 ^ 149)

/-- Quotient. -/
def fdiv (q : Word) (x y : F32) : F32 :=
  let neg := signBit x != signBit y
  if isNaN x || isNaN y then nanOf q
  else if isInf x then (if isInf y then nanOf q else fInf neg)
  else if isInf y then withSign neg 0
  else if isZero y then (if isZero x then nanOf q else fInf neg)
  else roundUnits neg (ulps x * 2 ^ 149) (ulps y)

/-! ## Exact primitives (R14) -/

/-- A number that orders the words that are not NaN as their values are ordered; both zeros give 0. -/
def orderKey (x : F32) : Int := if signBit x then -(magBits x : Int) else magBits x

def flt (x y : F32) : Bool := !isNaN x && !isNaN y && decide (orderKey x < orderKey y)
def fle (x y : F32) : Bool := !isNaN x && !isNaN y && decide (orderKey x ≤ orderKey y)
def fgt (x y : F32) : Bool := flt y x
def fge (x y : F32) : Bool := fle y x
def feq (x y : F32) : Bool := !isNaN x && !isNaN y && decide (orderKey x = orderKey y)

/-- The largest integral value not above `x`; NaN, infinities and zeros pass through. -/
def ffloor (x : F32) : F32 :=
  if isNaN x || isInf x || isZero x then x
  else if signBit x then roundUnits true ((ulps x + (2 ^ 149 - 1)) / 2 ^ 149 * 2 ^ 149) 1
  else roundUnits false (ulps x / 2 ^ 149 * 2 ^ 149) 1

/-- The binary32 nearest an unsigned integer, ties to even. -/
def u2f (n : Word) : F32 := roundUnits false (n.toNat * 2 ^ 149) 1

/-- The integer part of a finite non-negative value (R143). -/
def truncNat (x : F32) : Nat := ulps x / 2 ^ 149

end Machine
end Sys2Proof
end

