-- ==== Sys2Proof/Machine/Hardware.lean ====
section
/-! DEFINITION. The parameters of "this hardware" (00_scope.md R8): the default `FD_DESIGN`, the raw
formulas of 41_filter_designer.md R172 and R178 to R184, and the values R8 gives. -/

namespace Sys2Proof
namespace Machine

/-! ## The raw formulas (R172, R178 to R184) -/

/-- `t = 1 + cs` (R172). -/
def helperT (q : Nat → Word) (cs : F32) : F32 := fadd (q 0) fOne cs

/-- `u = 1 - cs` (R172). -/
def helperU (q : Nat → Word) (cs : F32) : F32 := fsub (q 1) fOne cs

/-- `alpha = sn / (2 Q)` (R172). -/
def helperAlpha (q : Nat → Word) (sn qual : F32) : F32 := fdiv (q 3) sn (fmul (q 2) fTwo qual)

/-- `m = -(2 cs)` (R172). -/
def helperM (q : Nat → Word) (cs : F32) : F32 := fneg (fmul (q 4) fTwo cs)

/-- A 1-pole sextuple: the numerator over `D1 = (t + sn, sn - t, +0)` (R172). -/
def overD1 (q : Nat → Word) (sn t n0 n1 : F32) : RawCoef :=
  { n0 := n0, n1 := n1, n2 := fZero, d0 := fadd (q 5) t sn, d1 := fsub (q 6) sn t, d2 := fZero }

/-- A 2-pole sextuple: the numerator over `D2 = (1 + alpha, m, 1 - alpha)` (R172). -/
def overD2 (q : Nat → Word) (alpha m n0 n1 n2 : F32) : RawCoef :=
  { n0 := n0, n1 := n1, n2 := n2, d0 := fadd (q 5) fOne alpha, d1 := m, d2 := fsub (q 6) fOne alpha }

/-- LPF1 (R178). -/
def rawLpf1 (q : Nat → Word) : RawFormula := fun sn cs _ => overD1 q sn (helperT q cs) sn sn

/-- HPF1 (R179). -/
def rawHpf1 (q : Nat → Word) : RawFormula := fun sn cs _ =>
  let t := helperT q cs
  overD1 q sn t t (fneg t)

/-- LPF2 (R180). -/
def rawLpf2 (q : Nat → Word) : RawFormula := fun sn cs qual =>
  let u := helperU q cs
  overD2 q (helperAlpha q sn qual) (helperM q cs) (fmul (q 7) u fHalf) u (fmul (q 8) u fHalf)

/-- HPF2 (R181). -/
def rawHpf2 (q : Nat → Word) : RawFormula := fun sn cs qual =>
  let t := helperT q cs
  overD2 q (helperAlpha q sn qual) (helperM q cs) (fmul (q 7) t fHalf) (fneg t) (fmul (q 8) t fHalf)

/-- APF1 (R182). -/
def rawApf1 (q : Nat → Word) : RawFormula := fun sn cs _ =>
  let t := helperT q cs
  overD1 q sn t (fsub (q 7) sn t) (fadd (q 8) t sn)

/-- APF2 (R183). -/
def rawApf2 (q : Nat → Word) : RawFormula := fun sn cs qual =>
  let alpha := helperAlpha q sn qual
  let m := helperM q cs
  overD2 q alpha m (fsub (q 7) fOne alpha) m (fadd (q 8) fOne alpha)

/-- BPF, the constant 0 dB peak gain form (R184). -/
def rawBpf (q : Nat → Word) : RawFormula := fun sn cs qual =>
  let alpha := helperAlpha q sn qual
  overD2 q alpha (helperM q cs) alpha fZero (fneg alpha)

/-- The seven formulas, the NaNs inside them at the free words `q`. -/
def cookbookFrom (q : Nat → Word) : FdDesign :=
  { lpf1 := rawLpf1 q, hpf1 := rawHpf1 q, lpf2 := rawLpf2 q, hpf2 := rawHpf2 q, apf1 := rawApf1 q,
    apf2 := rawApf2 q, bpf := rawBpf q }

/-- The default `FD_DESIGN` (R8, R187; log 8). Which free words it has is not seen
(`fdComputeShape_cookbookFrom`). -/
def cookbookDesign : FdDesign := cookbookFrom Config.designNaN

end Machine

/-! ## The parameter values -/

/-- The PDC that R8 calls "this hardware" (DESIGN CHOICE, logs 1 and 8: `exec` and `step` are this
one's; unsafe for an instance with other values, for which `execFor` and `stepFor` stand). -/
def thisHardware : Params :=
  { nRB := 16, nFD := 8, nOSC := 8, nSM := 16, nFDN := 2, capLog2Max := 16, oscPhaseWrap := true
    fdDesign := Machine.cookbookDesign
    nRB_bounds := by decide, nFD_bounds := by decide, nOSC_bounds := by decide
    nSM_bounds := by decide, nFDN_bounds := by decide, capLog2Max_bound := by decide }

end Sys2Proof
end

