-- ==== Sys2Proof/Syntax.lean ====
section
/-! DEFINITION. The commands of the PDC (30_encoding.md R94, R95) and the error codes
(60_exceptions.md R321): one constructor of `Instr` per row of the opcode table. -/

namespace Sys2Proof

/-- `POLICY` (R95): which interpolator a fractional read uses. -/
inductive Policy where
  | none | hermite | linear | lagrange
deriving DecidableEq, Repr

/-- `APFVAR` (R95). -/
inductive ApfVar where
  | schroeder | gerzon
deriving DecidableEq, Repr

/-- `WAVE` (R95). -/
inductive Wave where
  | sine | triangle | sawtooth | square | trapezoid | phasor | phasorInv
deriving DecidableEq, Repr

/-- `SHAPE` (R95); the last five have no formula (R185). -/
inductive Shape where
  | flat | lpf1 | hpf1 | lpf2 | hpf2 | apf1 | apf2 | bpf
  | brf | peak | lshelf | hshelf | parametric
deriving DecidableEq, Repr

/-- `SMVAR` (R95). -/
inductive SmVar where
  | basic | snap
deriving DecidableEq, Repr

/-- `CSR` (R58, R95): the readable control registers. -/
inductive Csr where
  | id | cfg0 | cfg1 | mode | status | errInfo | errCode
deriving DecidableEq, Repr

/-- The reasons a command is refused (R321). -/
inductive CmdError where
  /-- `OPC` is not one of the 24 assigned values. -/
  | eOpcode
  /-- `NARG` is not the opcode's required operand count. -/
  | eLength
  /-- `VAR` or `SEL` holds a value the opcode does not list. -/
  | eMod
  /-- `INST`, or an operand of FDN.BIND, is out of range. -/
  | eInst
  /-- A PREPARE-only command in RUN mode. -/
  | eMode
  /-- A buffer the command needs is not valid, or an FDN instance is not bound. -/
  | eNobuf
  /-- RB.CREATE asks for more than `CAP_MAX`. -/
  | eCapacity
deriving DecidableEq, Repr

/-- The commands (R94), operands in packet order; `i` is the INST field, absent where it must be 0. -/
inductive Instr where
  /-- `0x01` SYS.RESET (R301). -/
  | sysReset
  /-- `0x02` SYS.PREPARE (R302). -/
  | sysPrepare
  /-- `0x03` SYS.START (R303). -/
  | sysStart
  /-- `0x04` SYS.RDCSR (R304). -/
  | sysRdcsr (reg : Csr)
  /-- `0x05` SYS.CLRSTATUS (R305). -/
  | sysClrstatus (mask : Word)
  /-- `0x10` RB.CREATE (R131). -/
  | rbCreate (i : Inst) (requestedLength : Word)
  /-- `0x11` RB.DESTROY (R133). -/
  | rbDestroy (i : Inst)
  /-- `0x12` RB.WRITE (R136). -/
  | rbWrite (i : Inst) (sample : F32)
  /-- `0x13` RB.READI (R141). -/
  | rbReadi (i : Inst) (delay : Word)
  /-- `0x14` RB.READF (R146). -/
  | rbReadf (i : Inst) (policy : Policy) (delay : F32)
  /-- `0x20` FD.SETPARAM (R173). -/
  | fdSetparam (i : Inst) (cutoff sampleRate q gainDb : F32)
  /-- `0x21` FD.COMPUTE (R176). -/
  | fdCompute (i : Inst) (shape : Shape)
  /-- `0x22` FD.GETCOEF (R188). -/
  | fdGetcoef (i : Inst)
  /-- `0x30` OSC.PROCESS (R201). -/
  | oscProcess (i : Inst) (wave : Wave) (frequency sampleRate phaseOffset : F32)
  /-- `0x40` SM.CONFIG (R231). -/
  | smConfig (i : Inst) (smoothingTimeMs sampleRate : F32)
  /-- `0x41` SM.PROCESS (R235). -/
  | smProcess (i : Inst) (variant : SmVar) (target : F32)
  /-- `0x50` APF.PROCESS (R250). -/
  | apfProcess (i : Inst) (variant : ApfVar) (policy : Policy) (input delay gain : F32)
  /-- `0x60` COMB.PROCESS (R258). -/
  | combProcess (i : Inst) (policy : Policy) (dry delayTime feedbackGain mix : F32)
  /-- `0x70` FDN.BIND (R270). -/
  | fdnBind (i : Inst) (rb0 rb1 rb2 rb3 : Word)
  /-- `0x71` FDN.SETLEN (R272). -/
  | fdnSetlen (i : Inst) (len0 len1 len2 len3 : Word)
  /-- `0x72` FDN.SETROT (R273). -/
  | fdnSetrot (i : Inst) (cosT sinT : F32)
  /-- `0x73` FDN.SETDAMP (R274). -/
  | fdnSetdamp (i : Inst) (dampA : F32)
  /-- `0x74` FDN.SETGAIN (R275). -/
  | fdnSetgain (i : Inst) (in0 in1 in2 in3 w0 w1 w2 w3 : F32)
  /-- `0x75` FDN.STEP (R278). -/
  | fdnStep (i : Inst) (input decay mix : F32)
deriving DecidableEq, Repr

end Sys2Proof
end

