-- ==== Sys2Proof/WellFormed.lean ====
section
/-! DEFINITION. Which terms of `Instr` a packet can carry: the instance-range check, step 4 of
30_encoding.md R97. The other decode checks hold of every term by its type. -/

namespace Sys2Proof

/-- A ring-buffer number given as a U32 operand is below `N_RB` (R96, R270). -/
def bindOperandOk (P : Params) (rb : Word) : Bool := decide (rb.toNat < P.nRB)

/-- Step 4 of R97: the instance number is below the unit's count, and so is each operand of
FDN.BIND below `N_RB`. A SYS command has no instance number. -/
def Instr.wf (i : Instr) (P : Params := thisHardware) : Bool :=
  match i with
  | .sysReset => true
  | .sysPrepare => true
  | .sysStart => true
  | .sysRdcsr _ => true
  | .sysClrstatus _ => true
  | .rbCreate i _ => decide (i.toNat < P.nRB)
  | .rbDestroy i => decide (i.toNat < P.nRB)
  | .rbWrite i _ => decide (i.toNat < P.nRB)
  | .rbReadi i _ => decide (i.toNat < P.nRB)
  | .rbReadf i _ _ => decide (i.toNat < P.nRB)
  | .fdSetparam i _ _ _ _ => decide (i.toNat < P.nFD)
  | .fdCompute i _ => decide (i.toNat < P.nFD)
  | .fdGetcoef i => decide (i.toNat < P.nFD)
  | .oscProcess i _ _ _ _ => decide (i.toNat < P.nOSC)
  | .smConfig i _ _ => decide (i.toNat < P.nSM)
  | .smProcess i _ _ => decide (i.toNat < P.nSM)
  | .apfProcess i _ _ _ _ _ => decide (i.toNat < P.nRB)
  | .combProcess i _ _ _ _ _ => decide (i.toNat < P.nRB)
  | .fdnBind i rb0 rb1 rb2 rb3 =>
      decide (i.toNat < P.nFDN) &&
        (bindOperandOk P rb0 && bindOperandOk P rb1 && bindOperandOk P rb2 && bindOperandOk P rb3)
  | .fdnSetlen i _ _ _ _ => decide (i.toNat < P.nFDN)
  | .fdnSetrot i _ _ => decide (i.toNat < P.nFDN)
  | .fdnSetdamp i _ => decide (i.toNat < P.nFDN)
  | .fdnSetgain i _ _ _ _ _ _ _ _ => decide (i.toNat < P.nFDN)
  | .fdnStep i _ _ _ => decide (i.toNat < P.nFDN)

end Sys2Proof
end

