-- ==== Sys2Proof/Decode.lean ====
section
/-! DEFINITION. Decoding of command packets and its encoder (30_encoding.md R90 to R97). The machine
sees constructors of `Instr` only; a word that is no legal command is rejected by its error code. -/

namespace Sys2Proof

/-! ## Fields of a command word (R90) -/

/-- `OPC`, bits 31:24. -/
def opcOf (w : Word) : BitVec 8 := w.extractLsb' 24 8

/-- `INST`, bits 23:16. -/
def instOf (w : Word) : Inst := w.extractLsb' 16 8

/-- `VAR`, bits 15:12. -/
def varOf (w : Word) : BitVec 4 := w.extractLsb' 12 4

/-- `SEL`, bits 11:8. -/
def selOf (w : Word) : BitVec 4 := w.extractLsb' 8 4

/-- `NARG`, bits 7:0. -/
def nargField (w : Word) : BitVec 8 := w.extractLsb' 0 8

/-- The number of operand words that follow the command word, whatever `OPC` is (R91). -/
def nargOf (w : Word) : Nat := (nargField w).toNat

/-- The command word with the given fields (R90). -/
def packWord (opc : BitVec 8) (inst : Inst) (var sel : BitVec 4) (narg : BitVec 8) : Word :=
  opc ++ inst ++ var ++ sel ++ narg

/-! ## The opcode map (R94) -/

/-- The 24 assigned opcodes by name. -/
inductive Opcode where
  | sysReset | sysPrepare | sysStart | sysRdcsr | sysClrstatus
  | rbCreate | rbDestroy | rbWrite | rbReadi | rbReadf
  | fdSetparam | fdCompute | fdGetcoef
  | oscProcess
  | smConfig | smProcess
  | apfProcess | combProcess
  | fdnBind | fdnSetlen | fdnSetrot | fdnSetdamp | fdnSetgain | fdnStep
deriving DecidableEq, Repr

/-- Column OPC of R94. -/
def Opcode.code : Opcode → BitVec 8
  | .sysReset => 0x01
  | .sysPrepare => 0x02
  | .sysStart => 0x03
  | .sysRdcsr => 0x04
  | .sysClrstatus => 0x05
  | .rbCreate => 0x10
  | .rbDestroy => 0x11
  | .rbWrite => 0x12
  | .rbReadi => 0x13
  | .rbReadf => 0x14
  | .fdSetparam => 0x20
  | .fdCompute => 0x21
  | .fdGetcoef => 0x22
  | .oscProcess => 0x30
  | .smConfig => 0x40
  | .smProcess => 0x41
  | .apfProcess => 0x50
  | .combProcess => 0x60
  | .fdnBind => 0x70
  | .fdnSetlen => 0x71
  | .fdnSetrot => 0x72
  | .fdnSetdamp => 0x73
  | .fdnSetgain => 0x74
  | .fdnStep => 0x75

/-- Column NARG of R94. -/
def Opcode.narg : Opcode → BitVec 8
  | .sysReset => 0
  | .sysPrepare => 0
  | .sysStart => 0
  | .sysRdcsr => 0
  | .sysClrstatus => 1
  | .rbCreate => 1
  | .rbDestroy => 0
  | .rbWrite => 1
  | .rbReadi => 1
  | .rbReadf => 1
  | .fdSetparam => 4
  | .fdCompute => 0
  | .fdGetcoef => 0
  | .oscProcess => 3
  | .smConfig => 2
  | .smProcess => 1
  | .apfProcess => 3
  | .combProcess => 4
  | .fdnBind => 4
  | .fdnSetlen => 4
  | .fdnSetrot => 2
  | .fdnSetdamp => 1
  | .fdnSetgain => 8
  | .fdnStep => 3

/-- Column INST of R94 as a bound: a SYS command's must be 0, another's is below its unit's count. -/
def Opcode.instCount (o : Opcode) (P : Params := thisHardware) : Nat :=
  match o with
  | .sysReset => 1
  | .sysPrepare => 1
  | .sysStart => 1
  | .sysRdcsr => 1
  | .sysClrstatus => 1
  | .rbCreate => P.nRB
  | .rbDestroy => P.nRB
  | .rbWrite => P.nRB
  | .rbReadi => P.nRB
  | .rbReadf => P.nRB
  | .fdSetparam => P.nFD
  | .fdCompute => P.nFD
  | .fdGetcoef => P.nFD
  | .oscProcess => P.nOSC
  | .smConfig => P.nSM
  | .smProcess => P.nSM
  | .apfProcess => P.nRB
  | .combProcess => P.nRB
  | .fdnBind => P.nFDN
  | .fdnSetlen => P.nFDN
  | .fdnSetrot => P.nFDN
  | .fdnSetdamp => P.nFDN
  | .fdnSetgain => P.nFDN
  | .fdnStep => P.nFDN

/-- Every opcode of R94, in its order. -/
def Opcode.all : List Opcode :=
  [.sysReset, .sysPrepare, .sysStart, .sysRdcsr, .sysClrstatus,
   .rbCreate, .rbDestroy, .rbWrite, .rbReadi, .rbReadf,
   .fdSetparam, .fdCompute, .fdGetcoef, .oscProcess, .smConfig, .smProcess,
   .apfProcess, .combProcess,
   .fdnBind, .fdnSetlen, .fdnSetrot, .fdnSetdamp, .fdnSetgain, .fdnStep]

/-- The opcode with this code, if it is assigned (step 1 of R97). -/
def Opcode.ofCode? (c : BitVec 8) : Option Opcode :=
  Opcode.all.find? fun o => decide (o.code = c)

/-! ## Modifier enumerations (R95). A value not listed is reserved and reads as `none`. -/

/-- A modifier field that must be 0 (R94). -/
def zeroField? (x : BitVec 4) : Option Unit := if x = 0 then some () else none

def Policy.code : Policy → BitVec 4
  | .none => 0
  | .hermite => 1
  | .linear => 2
  | .lagrange => 3

def Policy.ofField? (x : BitVec 4) : Option Policy :=
  [Policy.none, .hermite, .linear, .lagrange].find? fun p => decide (p.code = x)

def ApfVar.code : ApfVar → BitVec 4
  | .schroeder => 0
  | .gerzon => 1

def ApfVar.ofField? (x : BitVec 4) : Option ApfVar :=
  [ApfVar.schroeder, .gerzon].find? fun v => decide (v.code = x)

def Wave.code : Wave → BitVec 4
  | .sine => 0
  | .triangle => 1
  | .sawtooth => 2
  | .square => 3
  | .trapezoid => 4
  | .phasor => 5
  | .phasorInv => 6

def Wave.ofField? (x : BitVec 4) : Option Wave :=
  [Wave.sine, .triangle, .sawtooth, .square, .trapezoid, .phasor, .phasorInv].find?
    fun v => decide (v.code = x)

def Shape.code : Shape → BitVec 4
  | .flat => 0
  | .lpf1 => 1
  | .hpf1 => 2
  | .lpf2 => 3
  | .hpf2 => 4
  | .apf1 => 5
  | .apf2 => 6
  | .bpf => 7
  | .brf => 8
  | .peak => 9
  | .lshelf => 10
  | .hshelf => 11
  | .parametric => 12

def Shape.ofField? (x : BitVec 4) : Option Shape :=
  [Shape.flat, .lpf1, .hpf1, .lpf2, .hpf2, .apf1, .apf2, .bpf, .brf, .peak, .lshelf, .hshelf,
    .parametric].find? fun v => decide (v.code = x)

def SmVar.code : SmVar → BitVec 4
  | .basic => 0
  | .snap => 1

def SmVar.ofField? (x : BitVec 4) : Option SmVar :=
  [SmVar.basic, .snap].find? fun v => decide (v.code = x)

def Csr.code : Csr → BitVec 4
  | .id => 0
  | .cfg0 => 1
  | .cfg1 => 2
  | .mode => 3
  | .status => 4
  | .errInfo => 5
  | .errCode => 6

def Csr.ofField? (x : BitVec 4) : Option Csr :=
  [Csr.id, .cfg0, .cfg1, .mode, .status, .errInfo, .errCode].find? fun v => decide (v.code = x)

/-! ## Error codes (R321) -/

def CmdError.code : CmdError → BitVec 8
  | .eOpcode => 1
  | .eLength => 2
  | .eMod => 3
  | .eInst => 4
  | .eMode => 5
  | .eNobuf => 6
  | .eCapacity => 7

/-! ## The decoder -/

/-- Operand word `k` of a complete packet (R90). -/
def operand (args : List Word) (k : Nat) : Word := args.getD k 0

/-- The command with this opcode, instance, modifiers and operands; `none` when `VAR` or `SEL`
holds a value the opcode does not list (step 3 of R97). -/
def buildInstr (o : Opcode) (i : Inst) (var sel : BitVec 4) (args : List Word) : Option Instr :=
  let a := operand args
  match o with
  | .sysReset => do zeroField? var; zeroField? sel; pure .sysReset
  | .sysPrepare => do zeroField? var; zeroField? sel; pure .sysPrepare
  | .sysStart => do zeroField? var; zeroField? sel; pure .sysStart
  | .sysRdcsr => do zeroField? var; pure (.sysRdcsr (← Csr.ofField? sel))
  | .sysClrstatus => do zeroField? var; zeroField? sel; pure (.sysClrstatus (a 0))
  | .rbCreate => do zeroField? var; zeroField? sel; pure (.rbCreate i (a 0))
  | .rbDestroy => do zeroField? var; zeroField? sel; pure (.rbDestroy i)
  | .rbWrite => do zeroField? var; zeroField? sel; pure (.rbWrite i (a 0))
  | .rbReadi => do zeroField? var; zeroField? sel; pure (.rbReadi i (a 0))
  | .rbReadf => do zeroField? var; pure (.rbReadf i (← Policy.ofField? sel) (a 0))
  | .fdSetparam => do zeroField? var; zeroField? sel; pure (.fdSetparam i (a 0) (a 1) (a 2) (a 3))
  | .fdCompute => do zeroField? var; pure (.fdCompute i (← Shape.ofField? sel))
  | .fdGetcoef => do zeroField? var; zeroField? sel; pure (.fdGetcoef i)
  | .oscProcess => do
      zeroField? var; pure (.oscProcess i (← Wave.ofField? sel) (a 0) (a 1) (a 2))
  | .smConfig => do zeroField? var; zeroField? sel; pure (.smConfig i (a 0) (a 1))
  | .smProcess => do zeroField? var; pure (.smProcess i (← SmVar.ofField? sel) (a 0))
  | .apfProcess => do
      pure (.apfProcess i (← ApfVar.ofField? var) (← Policy.ofField? sel) (a 0) (a 1) (a 2))
  | .combProcess => do
      zeroField? var; pure (.combProcess i (← Policy.ofField? sel) (a 0) (a 1) (a 2) (a 3))
  | .fdnBind => do zeroField? var; zeroField? sel; pure (.fdnBind i (a 0) (a 1) (a 2) (a 3))
  | .fdnSetlen => do zeroField? var; zeroField? sel; pure (.fdnSetlen i (a 0) (a 1) (a 2) (a 3))
  | .fdnSetrot => do zeroField? var; zeroField? sel; pure (.fdnSetrot i (a 0) (a 1))
  | .fdnSetdamp => do zeroField? var; zeroField? sel; pure (.fdnSetdamp i (a 0))
  | .fdnSetgain => do
      zeroField? var; zeroField? sel
      pure (.fdnSetgain i (a 0) (a 1) (a 2) (a 3) (a 4) (a 5) (a 6) (a 7))
  | .fdnStep => do zeroField? var; zeroField? sel; pure (.fdnStep i (a 0) (a 1) (a 2))

/-- The four decode checks of R97, in their order, on a command word and its operand words. -/
def decode (w : Word) (args : List Word) (P : Params := thisHardware) :
    Except CmdError Instr :=
  match Opcode.ofCode? (opcOf w) with
  | none => .error .eOpcode
  | some o =>
    if nargField w ≠ o.narg then .error .eLength
    else
      match buildInstr o (instOf w) (varOf w) (selOf w) args with
      | none => .error .eMod
      | some i => if (instOf w).toNat < o.instCount P ∧ i.wf P then .ok i else .error .eInst

/-- What the first words of a stream hold: too few words for a packet (R92), a refused packet, or a
command; the last two with the packet's command word and the words after the packet (R91). -/
inductive Decoded where
  | incomplete
  | refused (w : Word) (e : CmdError) (rest : List Word)
  | command (i : Instr) (rest : List Word)
deriving DecidableEq, Repr

/-- The first packet of a stream of words, decoded. The length is told by the command word alone
(R91). Total on any words. -/
def decodePacket (words : List Word) (P : Params := thisHardware) : Decoded :=
  match words with
  | [] => .incomplete
  | w :: ws =>
    if ws.length < nargOf w then .incomplete
    else
      match decode w (ws.take (nargOf w)) P with
      | .error e => .refused w e (ws.drop (nargOf w))
      | .ok i => .command i (ws.drop (nargOf w))

/-! ## The encoder -/

def Instr.opcode : Instr → Opcode
  | .sysReset => .sysReset
  | .sysPrepare => .sysPrepare
  | .sysStart => .sysStart
  | .sysRdcsr _ => .sysRdcsr
  | .sysClrstatus _ => .sysClrstatus
  | .rbCreate _ _ => .rbCreate
  | .rbDestroy _ => .rbDestroy
  | .rbWrite _ _ => .rbWrite
  | .rbReadi _ _ => .rbReadi
  | .rbReadf _ _ _ => .rbReadf
  | .fdSetparam _ _ _ _ _ => .fdSetparam
  | .fdCompute _ _ => .fdCompute
  | .fdGetcoef _ => .fdGetcoef
  | .oscProcess _ _ _ _ _ => .oscProcess
  | .smConfig _ _ _ => .smConfig
  | .smProcess _ _ _ => .smProcess
  | .apfProcess _ _ _ _ _ _ => .apfProcess
  | .combProcess _ _ _ _ _ _ => .combProcess
  | .fdnBind _ _ _ _ _ => .fdnBind
  | .fdnSetlen _ _ _ _ _ => .fdnSetlen
  | .fdnSetrot _ _ _ => .fdnSetrot
  | .fdnSetdamp _ _ => .fdnSetdamp
  | .fdnSetgain _ _ _ _ _ _ _ _ _ => .fdnSetgain
  | .fdnStep _ _ _ _ => .fdnStep

/-- The INST field, 0 for a SYS command (R94). -/
def Instr.inst : Instr → Inst
  | .sysReset => 0
  | .sysPrepare => 0
  | .sysStart => 0
  | .sysRdcsr _ => 0
  | .sysClrstatus _ => 0
  | .rbCreate i _ => i
  | .rbDestroy i => i
  | .rbWrite i _ => i
  | .rbReadi i _ => i
  | .rbReadf i _ _ => i
  | .fdSetparam i _ _ _ _ => i
  | .fdCompute i _ => i
  | .fdGetcoef i => i
  | .oscProcess i _ _ _ _ => i
  | .smConfig i _ _ => i
  | .smProcess i _ _ => i
  | .apfProcess i _ _ _ _ _ => i
  | .combProcess i _ _ _ _ _ => i
  | .fdnBind i _ _ _ _ => i
  | .fdnSetlen i _ _ _ _ => i
  | .fdnSetrot i _ _ => i
  | .fdnSetdamp i _ => i
  | .fdnSetgain i _ _ _ _ _ _ _ _ => i
  | .fdnStep i _ _ _ => i

/-- The VAR field: the all-pass variant, otherwise 0 (R94). -/
def Instr.var : Instr → BitVec 4
  | .apfProcess _ v _ _ _ _ => v.code
  | .sysReset => 0
  | .sysPrepare => 0
  | .sysStart => 0
  | .sysRdcsr _ => 0
  | .sysClrstatus _ => 0
  | .rbCreate _ _ => 0
  | .rbDestroy _ => 0
  | .rbWrite _ _ => 0
  | .rbReadi _ _ => 0
  | .rbReadf _ _ _ => 0
  | .fdSetparam _ _ _ _ _ => 0
  | .fdCompute _ _ => 0
  | .fdGetcoef _ => 0
  | .oscProcess _ _ _ _ _ => 0
  | .smConfig _ _ _ => 0
  | .smProcess _ _ _ => 0
  | .combProcess _ _ _ _ _ _ => 0
  | .fdnBind _ _ _ _ _ => 0
  | .fdnSetlen _ _ _ _ _ => 0
  | .fdnSetrot _ _ _ => 0
  | .fdnSetdamp _ _ => 0
  | .fdnSetgain _ _ _ _ _ _ _ _ _ => 0
  | .fdnStep _ _ _ _ => 0

/-- The SEL field: the primary modifier where the command has one, otherwise 0 (R94). -/
def Instr.sel : Instr → BitVec 4
  | .sysRdcsr r => r.code
  | .rbReadf _ p _ => p.code
  | .fdCompute _ sh => sh.code
  | .oscProcess _ wv _ _ _ => wv.code
  | .smProcess _ v _ => v.code
  | .apfProcess _ _ p _ _ _ => p.code
  | .combProcess _ p _ _ _ _ => p.code
  | .sysReset => 0
  | .sysPrepare => 0
  | .sysStart => 0
  | .sysClrstatus _ => 0
  | .rbCreate _ _ => 0
  | .rbDestroy _ => 0
  | .rbWrite _ _ => 0
  | .rbReadi _ _ => 0
  | .fdSetparam _ _ _ _ _ => 0
  | .fdGetcoef _ => 0
  | .smConfig _ _ _ => 0
  | .fdnBind _ _ _ _ _ => 0
  | .fdnSetlen _ _ _ _ _ => 0
  | .fdnSetrot _ _ _ => 0
  | .fdnSetdamp _ _ => 0
  | .fdnSetgain _ _ _ _ _ _ _ _ _ => 0
  | .fdnStep _ _ _ _ => 0

/-- The operand words in packet order (R94). -/
def Instr.operands : Instr → List Word
  | .sysReset => []
  | .sysPrepare => []
  | .sysStart => []
  | .sysRdcsr _ => []
  | .sysClrstatus m => [m]
  | .rbCreate _ n => [n]
  | .rbDestroy _ => []
  | .rbWrite _ v => [v]
  | .rbReadi _ d => [d]
  | .rbReadf _ _ d => [d]
  | .fdSetparam _ c sr q g => [c, sr, q, g]
  | .fdCompute _ _ => []
  | .fdGetcoef _ => []
  | .oscProcess _ _ f sr po => [f, sr, po]
  | .smConfig _ t sr => [t, sr]
  | .smProcess _ _ t => [t]
  | .apfProcess _ _ _ x d g => [x, d, g]
  | .combProcess _ _ x d g m => [x, d, g, m]
  | .fdnBind _ r0 r1 r2 r3 => [r0, r1, r2, r3]
  | .fdnSetlen _ l0 l1 l2 l3 => [l0, l1, l2, l3]
  | .fdnSetrot _ c s => [c, s]
  | .fdnSetdamp _ a => [a]
  | .fdnSetgain _ g0 g1 g2 g3 w0 w1 w2 w3 => [g0, g1, g2, g3, w0, w1, w2, w3]
  | .fdnStep _ x d m => [x, d, m]

/-- The command word of an instruction (R90). -/
def commandWord (i : Instr) : Word :=
  packWord i.opcode.code i.inst i.var i.sel i.opcode.narg

/-- The packet of an instruction: its command word and operand words (R90). -/
def encode (i : Instr) : List Word := commandWord i :: i.operands

/-! ## The host's word numbering -/

/-- The words of the packet whose bits are `w` (the first word its low 32 bits), `nbits` of them
given and every bit above 0: the command word and as many operand words as its NARG says. -/
def packetOfBits (nbits w : Nat) : List Word :=
  let bits := w % 2 ^ nbits
  let first : Word := BitVec.ofNat 32 bits
  first :: (List.range (nargOf first)).map fun k => BitVec.ofNat 32 (bits >>> (32 * (k + 1)))

/-- The instruction the decoder reads from an instruction whose bits are `w`. -/
def decodeTableWord (nbits w : Nat) : Option Instr :=
  match decodePacket (packetOfBits nbits w) with
  | .command i _ => some i
  | .refused _ _ _ => none
  | .incomplete => none

end Sys2Proof
end

