-- ==== Sys2Proof/Machine/State.lean ====
section
/-! DEFINITION. The state of the PDC (10_state.md R30 to R65, 00_scope.md R6) as plain data, the
reasons a step can stop, and the state right after reset (R65). -/

namespace Sys2Proof
namespace Machine

/-- One stored sample: a slot number and the word it holds. The unit of addressing is one 32-bit
sample, never a byte (20_memory.md R70, R74; DESIGN CHOICE, log 5: safe). -/
abbrev SampleCell := Nat × Word

/-- The sample memory of one ring-buffer instance (R37, R70) in its canonical form: slots strictly
rising, no entry holding the `+0` that an unlisted slot reads as. -/
abbrev Memory := List SampleCell

/-- Registers and storage of one ring-buffer instance (R35, R37). -/
structure RbInst where
  valid      : Bool
  capacity   : Word
  wrapMask   : Word
  writeIndex : Word
  storage    : Memory
deriving DecidableEq, Repr

/-- Registers of one filter-designer instance (R38). -/
structure FdInst where
  cutoff     : F32
  sampleRate : F32
  q          : F32
  gainDb     : F32
  omega      : F32
  sn         : F32
  cs         : F32
  gain       : F32
  a0 : F32
  a1 : F32
  a2 : F32
  b0 : F32
  b1 : F32
  b2 : F32
deriving DecidableEq, Repr

/-- Registers of one oscillator instance (R40). -/
structure OscInst where
  phase      : F32
  sampleRate : F32
  frequency  : F32
deriving DecidableEq, Repr

/-- Registers of one smoother instance (R41). -/
structure SmInst where
  a     : F32
  b     : F32
  z     : F32
  zPrev : F32
deriving DecidableEq, Repr

/-- Registers of one feedback-delay-network instance (R50). -/
structure FdnInst where
  bound  : Bool
  line   : Vector (BitVec 8) 4
  len    : Vector Word 4
  cosT   : F32
  sinT   : F32
  dampA  : F32
  dampB  : F32
  inGain : Vector F32 4
  outW   : Vector F32 4
  dz     : Vector F32 4
  fb     : Vector F32 4
deriving DecidableEq, Repr

/-- `SYS.MODE` (R55, R340). -/
inductive Mode where
  | prepare | run
deriving DecidableEq, Repr

/-- The packet assembly buffer (R62): the command word once it has arrived, the operand words kept
(at most 8, R91) and how many operand words have arrived. -/
structure PacketBuf where
  cmd  : Option Word
  args : List Word
  got  : Nat
deriving DecidableEq, Repr

/-- The state of the PDC with parameters `P`, which are no part of it (R18, R30): `State` alone is the
state of this hardware. -/
structure State (P : Params := thisHardware) where
  /-- RB instances (R35, R37). -/
  rb  : Vector RbInst P.nRB
  /-- FD instances (R38). -/
  fd  : Vector FdInst P.nFD
  /-- OSC instances (R40). -/
  osc : Vector OscInst P.nOSC
  /-- SM instances (R41). -/
  sm  : Vector SmInst P.nSM
  /-- FDN instances (R50). -/
  fdn : Vector FdnInst P.nFDN
  /-- `SYS.MODE` (R55). -/
  mode : Mode
  /-- `SYS.STATUS` bits 4:0 (R56); bits 31:5 read as 0. -/
  status : BitVec 5
  /-- `SYS.ERRINFO` (R57). -/
  errInfo : Word
  /-- `SYS.ERRCODE` (R57). -/
  errCode : BitVec 8
  /-- The packet assembly buffer (R62). -/
  pkt : PacketBuf
  /-- Words the host offers on the command stream, oldest first (R6; log 7). -/
  cmdIn : List Word
  /-- Words the PDC offers on the response stream, oldest first (R6, R100; log 7). -/
  rspOut : List Word
  /-- The pin `rst_n`; `false` is asserted (R6, R350; log 7). -/
  rstN : Bool
  /-- The MODEL's own: which free words the next command's NaNs are (R13, U1; log 3). -/
  nanEpoch : Nat
deriving DecidableEq, Repr

/-- Why the machine stops. No state that reset can reach raises either: the spec masks every slot
index into range and checks every bound line (log 6). -/
inductive Fault where
  /-- `MemRead` or `MemWrite` on a slot at or above `capacity`, which "do not exist for any rule"
  (R37, R71, R72). Raised by the two memory primitives. Safe: the hardware cannot get there. -/
  | noSuchSlot
  /-- FDN.STEP on a bound line whose number is not an RB instance (R70). Raised by FDN.STEP.
  Safe: the hardware cannot get there, FDN.BIND refuses such a number. -/
  | noSuchLine
deriving DecidableEq, Repr

/-- Why the model has no meaning for an instruction. -/
inductive Refusal where
  /-- The instruction has no meaning yet. Raised by `exec` alone. Safe. No arm uses it. -/
  | notModelled (mnemonic : String)
deriving DecidableEq, Repr

/-! ## Reset values (R65) -/

/-- A ring buffer after reset: not valid, registers 0, no storage listed (R65; 93 U2, log 5). -/
def RbInst.reset : RbInst :=
  { valid := false, capacity := 0, wrapMask := 0, writeIndex := 0, storage := [] }

/-- A filter designer after reset: fourteen `+0` registers (R38, R65). -/
def FdInst.reset : FdInst :=
  { cutoff := 0, sampleRate := 0, q := 0, gainDb := 0, omega := 0, sn := 0, cs := 0, gain := 0,
    a0 := 0, a1 := 0, a2 := 0, b0 := 0, b1 := 0, b2 := 0 }

/-- An oscillator after reset (R40, R65). -/
def OscInst.reset : OscInst := { phase := 0, sampleRate := 0, frequency := 0 }

/-- A smoother after reset: `b = 1.0`, the rest `+0` (R41, R65). -/
def SmInst.reset : SmInst := { a := 0, b := 0x3F800000, z := 0, zPrev := 0 }

/-- A feedback delay network after reset: `cosT = dampB = 1.0`, the rest 0 (R50, R65). -/
def FdnInst.reset : FdnInst :=
  { bound := false, line := Vector.replicate 4 0, len := Vector.replicate 4 0,
    cosT := 0x3F800000, sinT := 0, dampA := 0, dampB := 0x3F800000,
    inGain := Vector.replicate 4 0, outW := Vector.replicate 4 0,
    dz := Vector.replicate 4 0, fb := Vector.replicate 4 0 }

/-- The empty packet assembly buffer (R65). -/
def PacketBuf.empty : PacketBuf := { cmd := none, args := [], got := 0 }

/-- The machine right after reset (R65), with nothing on either stream, `rst_n` high and the first
draw of free words next (the last four: DESIGN CHOICE, logs 3 and 7). -/
def State.resetFor (P : Params) : State P :=
  { rb := Vector.replicate P.nRB RbInst.reset
    fd := Vector.replicate P.nFD FdInst.reset
    osc := Vector.replicate P.nOSC OscInst.reset
    sm := Vector.replicate P.nSM SmInst.reset
    fdn := Vector.replicate P.nFDN FdnInst.reset
    mode := .prepare
    status := 0
    errInfo := 0
    errCode := 0
    pkt := PacketBuf.empty
    cmdIn := []
    rspOut := []
    rstN := true
    nanEpoch := 0 }

/-- `State.resetFor` of this hardware. -/
def State.reset : State := State.resetFor thisHardware

/-! ## Reading and replacing one instance -/

variable {P : Params}

def State.rbAt (s : State P) (r : Fin P.nRB) : RbInst := s.rb[r.val]
def State.fdAt (s : State P) (r : Fin P.nFD) : FdInst := s.fd[r.val]
def State.oscAt (s : State P) (r : Fin P.nOSC) : OscInst := s.osc[r.val]
def State.smAt (s : State P) (r : Fin P.nSM) : SmInst := s.sm[r.val]
def State.fdnAt (s : State P) (r : Fin P.nFDN) : FdnInst := s.fdn[r.val]

def State.setRb (s : State P) (r : Fin P.nRB) (x : RbInst) : State P :=
  { s with rb := s.rb.set r.val x }

def State.setFd (s : State P) (r : Fin P.nFD) (x : FdInst) : State P :=
  { s with fd := s.fd.set r.val x }

def State.setOsc (s : State P) (r : Fin P.nOSC) (x : OscInst) : State P :=
  { s with osc := s.osc.set r.val x }

def State.setSm (s : State P) (r : Fin P.nSM) (x : SmInst) : State P :=
  { s with sm := s.sm.set r.val x }

def State.setFdn (s : State P) (r : Fin P.nFDN) (x : FdnInst) : State P :=
  { s with fdn := s.fdn.set r.val x }

/-! ## Replacing one register -/

def State.setMode (s : State P) (m : Mode) : State P := { s with mode := m }
def State.setStatus (s : State P) (b : BitVec 5) : State P := { s with status := b }

/-- Both halves of the error record (R57). -/
def State.setErr (s : State P) (info : Word) (code : BitVec 8) : State P :=
  { s with errInfo := info, errCode := code }

def State.setPkt (s : State P) (p : PacketBuf) : State P := { s with pkt := p }
def State.setCmdIn (s : State P) (ws : List Word) : State P := { s with cmdIn := ws }
def State.setRspOut (s : State P) (ws : List Word) : State P := { s with rspOut := ws }
def State.setRstN (s : State P) (b : Bool) : State P := { s with rstN := b }

/-- Later NaNs are other draws than those of the command that calls this (log 3). -/
def State.nextDraw (s : State P) : State P := { s with nanEpoch := s.nanEpoch + 1 }

/-- The free words of the NaNs of the command that runs in `s`, by place (R13, U1; log 3). -/
def State.draws (s : State P) : Nat → Word := Config.nanDraw s.nanEpoch

end Machine
end Sys2Proof
end

