-- ==== Sys2Proof/Machine/Flags.lean ====
section
/-! DEFINITION. The five sticky bits of `SYS.STATUS` (10_state.md R56, 60_exceptions.md R330, R331)
and the exact condition under which each is set. -/

namespace Sys2Proof
namespace Machine

variable {P : Params}

/-- The sticky flags by name (R56). -/
inductive Flag where
  | fDelay | fGain | fShape | fParam | fCmd
deriving DecidableEq, Repr

/-- The bit of `STATUS` a flag is (R56). -/
def Flag.mask : Flag → BitVec 5
  | .fDelay => 0b00001
  | .fGain => 0b00010
  | .fShape => 0b00100
  | .fParam => 0b01000
  | .fCmd => 0b10000

/-- Whether a flag is set. -/
def State.hasFlag (s : State P) (f : Flag) : Bool := decide (s.status &&& f.mask ≠ 0)

/-- `flag(F)`: sets the bit and has no other effect (R330). -/
def State.flag (s : State P) (f : Flag) : State P := s.setStatus (s.status ||| f.mask)

/-- `flag(F)` under a condition. -/
def State.flagIf (s : State P) (c : Bool) (f : Flag) : State P :=
  s.setStatus (if c then s.status ||| f.mask else s.status)

/-- The `F_DELAY` condition of an integer delay, unsigned (40_ring_buffer.md R141; 45_fdn.md R280). -/
def delayBeyond (r : RbInst) (d : Word) : Bool := decide (r.capacity.toNat ≤ d.toNat)

/-- The `F_GAIN` condition: not `0 <= g < 1`, so a NaN is flagged and `-0` is not
(44_delay_lines.md R247; 45_fdn.md R286). -/
def gainOutOfRange (g : F32) : Bool := !(fge g fZero && flt g fOne)

/-- Not greater than zero: zero, negative or NaN (the test of class (d), D30). -/
def notPositive (x : F32) : Bool := !fgt x fZero

/-- The `F_PARAM` condition of FD.SETPARAM (41_filter_designer.md R175). -/
def fdParamBad (cutoff sampleRate q : F32) : Bool :=
  notPositive sampleRate || notPositive cutoff || notPositive q

/-- The `F_PARAM` condition of OSC.PROCESS (42_oscillator.md R206); the frequency is not tested. -/
def oscParamBad (sampleRate : F32) : Bool := notPositive sampleRate

/-- The `F_PARAM` condition of SM.CONFIG (43_smoother.md R233). -/
def smParamBad (smoothingTimeMs sampleRate : F32) : Bool :=
  notPositive smoothingTimeMs || notPositive sampleRate

end Machine
end Sys2Proof
end

