-- ==== Sys2Proof/Machine/Operands.lean ====
section
/-! DEFINITION. The forms a command's operands and results take: a real delay split into an integer
and a fraction (40_ring_buffer.md R143), the value of a control register (10_state.md R58) and the
response header (30_encoding.md R100). U32 and F32 operands are whole words, used as they are (R96). -/

namespace Sys2Proof
namespace Machine

variable {P : Params}

/-- What `split` makes of a real delay (R143). -/
structure SplitDelay where
  n   : Word
  f   : F32
  bad : Bool
deriving DecidableEq, Repr

/-- `split(d)` (R143): truncation with an exact fraction for `0 <= d < 2^31`; a NaN, negative or
larger delay reads at the nearest end of the range and is marked. The subtraction is exact, so the
free word `q` is never used for a delay that reaches it. -/
def splitDelay (q : Word) (d : F32) : SplitDelay :=
  if isNaN d || flt d fZero then { n := 0, f := fZero, bad := true }
  else if fge d fTwo31 then { n := 0x7FFFFFFF, f := fZero, bad := true }
  else if feq d fZero then { n := 0, f := fZero, bad := false }
  else
    let n : Word := BitVec.ofNat 32 (truncNat d)
    { n := n, f := fsub q d (u2f n), bad := false }

/-! ## Control registers (R58) -/

/-- `ID`, the constant `0x50554107`. -/
def csrId : Word := 0x50554107

/-- `CFG0`: the counts of RB, FD, OSC and SM instances, each less one. -/
def csrCfg0 (P : Params) : Word :=
  BitVec.ofNat 8 (P.nSM - 1) ++ BitVec.ofNat 8 (P.nOSC - 1) ++
    BitVec.ofNat 8 (P.nFD - 1) ++ BitVec.ofNat 8 (P.nRB - 1)

/-- `CFG1`: the count of FDN instances less one, `CAP_LOG2_MAX` and `OSC_PHASE_WRAP`. -/
def csrCfg1 (P : Params) : Word :=
  BitVec.ofNat 15 0 ++ BitVec.ofBool P.oscPhaseWrap ++ BitVec.ofNat 8 P.capLog2Max ++
    BitVec.ofNat 8 (P.nFDN - 1)

/-- The mode bit (R55). -/
def Mode.bit : Mode → Word
  | .prepare => 0
  | .run => 1

/-- The value SYS.RDCSR returns, zero-extended to 32 bits (R58, R304). -/
def csrValue (s : State P) : Csr → Word
  | .id => csrId
  | .cfg0 => csrCfg0 P
  | .cfg1 => csrCfg1 P
  | .mode => s.mode.bit
  | .status => s.status.setWidth 32
  | .errInfo => s.errInfo
  | .errCode => s.errCode.setWidth 32

/-! ## Responses (R100) -/

/-- The response header for command word `w`: `OPC` and `INST` copied, then `ERR` and `NRES`. -/
def headerWord (w : Word) (err nres : BitVec 8) : Word := opcOf w ++ instOf w ++ err ++ nres

/-- The response packet of an accepted command. -/
def acceptedPacket (w : Word) (results : List Word) : List Word :=
  headerWord w 0 (BitVec.ofNat 8 results.length) :: results

/-- The response packet of a refused command: no result words. -/
def refusedPacket (w : Word) (e : CmdError) : List Word := [headerWord w e.code 0]

end Machine
end Sys2Proof
end

