-- ==== Sys2Proof/Machine/Ops.lean ====
section
/-! DEFINITION. The operations the commands share: the sample memory (20_memory.md), the two
ring-buffer primitives (40_ring_buffer.md R134, R135), answering and refusing a command
(60_exceptions.md R324), clearing the record (46_system.md R305), and both resets
(70_reset_and_hazards.md R350). -/

namespace Sys2Proof
namespace Machine

variable {P : Params}

/-- What a command's meaning answers. -/
abbrev Result (P : Params := thisHardware) := Host.Outcome (State P) Fault Refusal

/-! ## Sample memory (R70 to R76) -/

/-- What a slot that is not listed reads as: the `+0` of RB.CREATE's zero-fill (R37, R131). -/
def Memory.unlisted : Word := fZero

/-- The canonical form: slots strictly rising and no entry holding what an unlisted slot reads as. -/
def Memory.wf : Memory → Bool
  | [] => true
  | (a, v) :: m => decide (v ≠ Memory.unlisted) && m.all (fun c => decide (a < c.1)) && Memory.wf m

/-- The word in a slot. -/
def Memory.read : Memory → Nat → Word
  | [], _ => Memory.unlisted
  | (a, v) :: m, k => if a = k then v else Memory.read m k

/-- The memory with one slot's word replaced, canonical form kept. -/
def Memory.write : Memory → Nat → Word → Memory
  | [], k, v => if v = Memory.unlisted then [] else [(k, v)]
  | (a, u) :: m, k, v =>
    if k < a then (if v = Memory.unlisted then (a, u) :: m else (k, v) :: (a, u) :: m)
    else if k = a then (if v = Memory.unlisted then m else (k, v) :: m)
    else (a, u) :: Memory.write m k v

/-- The memory in which every slot holds `+0` (R131). -/
def Memory.zeroFilled : Memory := []

/-- `MemRead(i, k)` (R71); a slot that does not exist is a fault (log 6). -/
def memRead (r : RbInst) (k : Nat) : Except Fault Word :=
  if r.valid && decide (k < r.capacity.toNat) then .ok (Memory.read r.storage k)
  else .error .noSuchSlot

/-- `MemWrite(i, k, v)` (R72): one slot replaced, no register changed. -/
def memWrite (r : RbInst) (k : Nat) (v : Word) : Except Fault RbInst :=
  if r.valid && decide (k < r.capacity.toNat) then
    .ok { r with storage := Memory.write r.storage k v }
  else .error .noSuchSlot

/-! ## The ring-buffer primitives -/

/-- The slot an integer delay reads: `u32(writeIndex - d) & wrapMask` (R73, R134). -/
def slotOf (r : RbInst) (d : Word) : Nat := ((r.writeIndex - d) &&& r.wrapMask).toNat

/-- `rb_read_int(i, d)` (R134). -/
def ringReadInt (r : RbInst) (d : Word) : Except Fault F32 := memRead r (slotOf r d)

/-- `rb_write(i, v)` (R135): store, then advance. -/
def ringWrite (r : RbInst) (v : F32) : Except Fault RbInst := do
  let r' ← memWrite r r.writeIndex.toNat v
  pure { r' with writeIndex := (r.writeIndex + 1) &&& r.wrapMask }

/-- `rb_write` on instance `i` of the state. -/
def ringWriteAt (s : State P) (i : Fin P.nRB) (v : F32) : Except Fault (State P) := do
  let r ← ringWrite (s.rbAt i) v
  pure (s.setRb i r)

/-! ## Answering a command (R100) -/

/-- The state with the response of the accepted command `w` sent after all its writes (R80). -/
def respond (w : Word) (results : List Word) (s : State P) : State P :=
  s.setRspOut (s.rspOut ++ acceptedPacket w results)

/-! ## Refusing a command: the nearest thing to taking an exception (R324), and the way back (R325) -/

/-- The error record after a refusal: the first refusal since `F_CMD` was 0 is kept (R324). -/
def recordError (w : Word) (e : CmdError) (s : State P) : State P :=
  (if s.hasFlag .fCmd then s else s.setErr w e.code).flag .fCmd

/-- `raise CmdError(e)` on command word `w`: the error record, the error response, nothing else. -/
def refuse (w : Word) (e : CmdError) (s : State P) : State P :=
  (recordError w e s).setRspOut (s.rspOut ++ refusedPacket w e)

/-- Clearing flags by a mask of ones; mask bit 4 clears the error record with `F_CMD` (R57, R305). -/
def clearStatus (mask : Word) (s : State P) : State P :=
  let t := s.setStatus (s.status &&& ~~~(mask.setWidth 5))
  if mask.getLsbD 4 then t.setErr 0 0 else t

/-! ## The checks of R322 that depend on the instance and the state -/

/-- Step 4: the instance the command names, or `E_INST`. -/
def withInst (n : Nat) (i : Inst) (w : Word) (s : State P) (k : Fin n → Result P) : Result P :=
  if h : i.toNat < n then k ⟨i.toNat, h⟩ else .next (refuse w .eInst s)

/-- Step 5: PREPARE mode, or `E_MODE`. -/
def inPrepare (w : Word) (s : State P) (k : Result P) : Result P :=
  if s.mode = .prepare then k else .next (refuse w .eMode s)

/-- Steps 4 and 6 of a command on one ring buffer: a valid instance, or `E_INST`, or `E_NOBUF`. -/
def withBuffer (i : Inst) (w : Word) (s : State P) (k : Fin P.nRB → Result P) : Result P :=
  withInst P.nRB i w s fun r =>
    if (s.rbAt r).valid then k r else .next (refuse w .eNobuf s)

/-- A computed next state, or the fault that stopped the computation. -/
def nextOrFault : Except Fault (State P) → Result P
  | .ok s => .next s
  | .error f => .fault f

/-! ## Reset (R350) -/

/-- Every piece of the spec's state at its reset value, and the packet assembly buffer empty (R65).
The words on both streams and the pin are the ports' and stay; later NaNs stay new draws
(logs 3, 7). -/
def resetState (s : State P) : State P :=
  { State.resetFor P with
    cmdIn := s.cmdIn, rspOut := s.rspOut, rstN := s.rstN, nanEpoch := s.nanEpoch }

/-- Hard reset: in addition no response word is offered, and what was offered and not taken is never
sent (R350; log 7). -/
def hardReset (s : State P) : State P := (resetState s).setRspOut []

end Machine
end Sys2Proof
end

