-- ==== Sys2Proof/Machine/Interp.lean ====
section
/-! DEFINITION. Fractional read and the interpolators (40_ring_buffer.md R143 to R155), each in the
exact order of operations its rule writes. The draws `q` of one read are places 0 to 31. -/

namespace Sys2Proof
namespace Machine

/-- `interp_linear` (R150), with the clamp at `f >= 1`. -/
def interpLinear (q : Nat → Word) (x0 x1 f : F32) : F32 :=
  if fge f fOne then x1
  else fadd (q 3) (fmul (q 1) x0 (fsub (q 0) fOne f)) (fmul (q 2) x1 f)

/-- `interp_hermite` (R151). -/
def interpHermite (q : Nat → Word) (xm1 x0 x1 x2 f : F32) : F32 :=
  let c := fmul (q 1) (fsub (q 0) x1 xm1) fHalf
  let v := fsub (q 2) x0 x1
  let w := fadd (q 3) c v
  let a := fadd (q 7) (fadd (q 4) w v) (fmul (q 6) (fsub (q 5) x2 x0) fHalf)
  let bn := fadd (q 8) w a
  fadd (q 14)
    (fmul (q 13) (fadd (q 12) (fmul (q 11) (fsub (q 10) (fmul (q 9) a f) bn) f) c) f) x0

/-- `interp_lagrange` (R152). -/
def interpLagrange (q : Nat → Word) (xm1 x0 x1 x2 f : F32) : F32 :=
  let fm1 := fsub (q 0) f fOne
  let fm2 := fsub (q 1) f fTwo
  let fp1 := fadd (q 2) f fOne
  let lm1 := fdiv (q 5) (fneg (fmul (q 4) (fmul (q 3) f fm1) fm2)) fSix
  let l0 := fmul (q 8) (fmul (q 7) (fmul (q 6) fp1 fm1) fm2) fHalf
  let l1 := fmul (q 11) (fneg (fmul (q 10) (fmul (q 9) fp1 f) fm2)) fHalf
  let l2 := fdiv (q 14) (fmul (q 13) (fmul (q 12) fp1 f) fm1) fSix
  fadd (q 21)
    (fadd (q 19) (fadd (q 17) (fmul (q 15) xm1 lm1) (fmul (q 16) x0 l0)) (fmul (q 18) x1 l1))
    (fmul (q 20) x2 l2)

/-- The four neighbours of R145. -/
structure Taps where
  xm1 : F32
  x0  : F32
  x1  : F32
  x2  : F32
deriving DecidableEq, Repr

/-- `taps4(i, n)` (R145): integer delays `n - 1`, `n`, `n + 1`, `n + 2`, each masked on its own. -/
def taps4 (r : RbInst) (n : Word) : Except Fault Taps := do
  let xm1 ← ringReadInt r (n - 1)
  let x0 ← ringReadInt r n
  let x1 ← ringReadInt r (n + 1)
  let x2 ← ringReadInt r (n + 2)
  pure { xm1 := xm1, x0 := x0, x1 := x1, x2 := x2 }

/-- The value of a fractional read at integer part `n` and fraction `f` (R144). -/
def readPolicy (q : Nat → Word) (r : RbInst) (n : Word) (f : F32) : Policy → Except Fault F32
  | .none => ringReadInt r n
  | .linear => do
      let x0 ← ringReadInt r n
      let x1 ← ringReadInt r (n + 1)
      pure (interpLinear q x0 x1 f)
  | .hermite => do
      let t ← taps4 r n
      pure (interpHermite q t.xm1 t.x0 t.x1 t.x2 f)
  | .lagrange => do
      let t ← taps4 r n
      pure (interpLagrange q t.xm1 t.x0 t.x1 t.x2 f)

/-- The `F_DELAY` condition of a real delay (R144). -/
def realDelayBeyond (r : RbInst) (d : SplitDelay) : Bool := d.bad || delayBeyond r d.n

/-- `rb_read_frac(i, d, policy)` (R144): the value, and whether `F_DELAY` is to be set. -/
def ringReadFrac (q : Nat → Word) (r : RbInst) (d : F32) (p : Policy) : Except Fault (F32 × Bool) := do
  let sd := splitDelay (q 31) d
  let v ← readPolicy q r sd.n sd.f p
  pure (v, realDelayBeyond r sd)

/-- The draws of a command from place `n` on. -/
def drawsFrom (q : Nat → Word) (n : Nat) : Nat → Word := fun k => q (n + k)

end Machine
end Sys2Proof
end

