-- ==== Sys2Proof/Machine/DelayLines.lean ====
section
/-! DEFINITION. APF and COMB, the all-pass and comb delay lines (44_delay_lines.md): stateless
combinations over the ring buffer the command names (R245). The read's draws are places 0 to 31. -/

namespace Sys2Proof
namespace Machine

variable {P : Params}

/-- `apf_out` (R251, R255). -/
def apfOut (q : Nat → Word) (variant : ApfVar) (d input gain : F32) : F32 :=
  match variant with
  | .schroeder => fadd (q 1) d (fmul (q 0) (fneg gain) input)
  | .gerzon =>
      fadd (q 4) (fmul (q 2) d (fsub (q 1) fOne (fmul (q 0) gain gain))) (fmul (q 3) (fneg gain) input)

/-- What APF and COMB write back: the input plus the delayed sample times the gain (R250, R258). -/
def feedbackInput (q : Nat → Word) (input d gain : F32) : F32 := fadd (q 1) input (fmul (q 0) d gain)

/-- The wet and dry mix (R258; also 45_fdn.md R278, R287). -/
def mixOut (q : Nat → Word) (wet dry mix : F32) : F32 :=
  fadd (q 3) (fmul (q 0) wet mix) (fmul (q 2) dry (fsub (q 1) fOne mix))

/-- APF.PROCESS (R250). -/
def execApfProcess (i : Inst) (variant : ApfVar) (policy : Policy) (input delay gain : F32)
    (s : State P) : Result P :=
  let w := commandWord (.apfProcess i variant policy input delay gain)
  let q := s.draws
  withBuffer i w s fun r => nextOrFault do
    let (d, late) ← ringReadFrac q (s.rbAt r) delay policy
    let out := apfOut (drawsFrom q 32) variant d input gain
    let t ← ringWriteAt s r (feedbackInput (drawsFrom q 40) input d gain)
    pure (respond w [out] ((t.flagIf late .fDelay).flagIf (gainOutOfRange gain) .fGain).nextDraw)

/-- COMB.PROCESS (R258). -/
def execCombProcess (i : Inst) (policy : Policy) (dry delayTime feedbackGain mix : F32)
    (s : State P) : Result P :=
  let w := commandWord (.combProcess i policy dry delayTime feedbackGain mix)
  let q := s.draws
  withBuffer i w s fun r => nextOrFault do
    let (wet, late) ← ringReadFrac q (s.rbAt r) delayTime policy
    let t ← ringWriteAt s r (feedbackInput (drawsFrom q 40) dry wet feedbackGain)
    let out := mixOut (drawsFrom q 32) wet dry mix
    pure (respond w [out]
      ((t.flagIf late .fDelay).flagIf (gainOutOfRange feedbackGain) .fGain).nextDraw)

end Machine
end Sys2Proof
end

