-- ==== Sys2Proof/Machine/Trans.lean ====
section
/-! DEFINITION. The five transcendental primitives `TRANS` (00_scope.md R16): the free functions of
`Config` kept inside the named properties `P_*` and nothing else. What a free function gives
outside a property is replaced by a value inside it, so every function that has the properties is
one of these and no other is (log 2: safe). A NaN result is a free word (U1; log 4: safe). -/

namespace Sys2Proof
namespace Machine

/-- A NaN result drawn afresh, any other result as it is. -/
def redrawNaN (q : Word) (r : F32) : F32 := if isNaN r then nanOf q else r

/-- A free result kept within `[-bound, bound]`. -/
def boundedBy (bound r : F32) : F32 := if fle (fabs r) bound then r else fZero

/-- `P_SIN_ZERO`, `P_SIN_RANGE`, `P_NAN`. -/
def fsin (q : Word) (x : F32) : F32 :=
  if isNaN x || isInf x then nanOf q
  else if isZero x then x
  else boundedBy fOne (Config.sinRaw x)

/-- `P_COS_ZERO`, `P_SIN_RANGE`, `P_NAN`. -/
def fcos (q : Word) (x : F32) : F32 :=
  if isNaN x || isInf x then nanOf q
  else if isZero x then fOne
  else boundedBy fOne (Config.cosRaw x)

/-- `P_ASIN_ZERO`, `P_ASIN_RANGE`, `P_NAN`. -/
def fasin (q : Word) (x : F32) : F32 :=
  if isZero x then x
  else if fle (fabs x) fOne then boundedBy fHalfPi (Config.asinRaw x)
  else nanOf q

/-- `P_EXP_ZERO`, `P_EXP_RANGE`, `P_NAN`. -/
def fexp (q : Word) (x : F32) : F32 :=
  if isNaN x then nanOf q
  else if isZero x then fOne
  else if isInf x && signBit x then fZero
  else if fle x fZero then
    (if fle fZero (Config.expRaw x) && fle (Config.expRaw x) fOne then Config.expRaw x else fZero)
  else redrawNaN q (Config.expRaw x)

/-- `P_POW10_ZERO`, `P_NAN`. -/
def fpow10 (q : Word) (x : F32) : F32 :=
  if isNaN x then nanOf q
  else if isZero x then fOne
  else redrawNaN q (Config.pow10Raw x)

end Machine
end Sys2Proof
end

