-- ==== Sys2Proof/Machine/Smoother.lean ====
section
/-! DEFINITION. SM, the one-pole parameter smoother (43_smoother.md). -/

namespace Sys2Proof
namespace Machine

variable {P : Params}

/-- The one-pole recurrence `x·b + z·a`, each product rounded before the sum (R235; also R282). -/
def onePole (q : Nat → Word) (a b x z : F32) : F32 := fadd (q 2) (fmul (q 0) x b) (fmul (q 1) z a)

/-- SM.CONFIG's effect on the registers (R231); `z` and `z_prev` are not touched. -/
def smConfigure (q : Nat → Word) (smoothingTimeMs sampleRate : F32) (m : SmInst) : SmInst :=
  let n := fmul (q 1) (fmul (q 0) smoothingTimeMs f001) sampleRate
  let a := fexp (q 3) (fdiv (q 2) (fneg fTwoPi) n)
  { m with a := a, b := fsub (q 4) fOne a }

/-- The new `z` before the snap (R235). -/
def smRamp (q : Nat → Word) (target : F32) (m : SmInst) : F32 := onePole q m.a m.b target m.z

/-- The SNAP test `|zn - zo| < b·0.001`, strict, false on a NaN (R235). -/
def smSnaps (q : Nat → Word) (target : F32) (m : SmInst) : Bool :=
  flt (fabs (fsub (q 3) (smRamp q target m) m.z)) (fmul (q 4) m.b f001)

/-- The new `z` (R235). -/
def smNext (q : Nat → Word) (variant : SmVar) (target : F32) (m : SmInst) : F32 :=
  match variant with
  | .basic => smRamp q target m
  | .snap => if smSnaps q target m then target else smRamp q target m

/-- SM.CONFIG (R231, R233). -/
def execSmConfig (i : Inst) (smoothingTimeMs sampleRate : F32) (s : State P) : Result P :=
  let w := commandWord (.smConfig i smoothingTimeMs sampleRate)
  withInst P.nSM i w s fun r =>
    .next (respond w []
      (((s.setSm r (smConfigure s.draws smoothingTimeMs sampleRate (s.smAt r))).flagIf
        (smParamBad smoothingTimeMs sampleRate) .fParam).nextDraw))

/-- SM.PROCESS (R235): both variants write `z_prev`. -/
def execSmProcess (i : Inst) (variant : SmVar) (target : F32) (s : State P) : Result P :=
  let w := commandWord (.smProcess i variant target)
  withInst P.nSM i w s fun r =>
    let m := s.smAt r
    let zn := smNext s.draws variant target m
    .next (respond w [zn] (s.setSm r { m with z := zn, zPrev := m.z }).nextDraw)

end Machine
end Sys2Proof
end

