-- ==== Sys2Proof/Machine/Fdn.lean ====
section
/-! DEFINITION. FDN, the four-line feedback delay network (45_fdn.md). The draws of one FDN.STEP:
places 0 to 23 the rotations, 24 to 35 the damping, 36 to 39 the decay, 40 to 47 the line inputs,
48 to 54 the wet sum, from 55 the mix. -/

namespace Sys2Proof
namespace Machine

variable {P : Params}

/-- Four values, one per line. -/
def perLine {α : Type} (g : Fin 4 → α) : Vector α 4 := #v[g 0, g 1, g 2, g 3]

/-! ## Configuration -/

/-- FDN.BIND (R270). -/
def execFdnBind (i : Inst) (rb0 rb1 rb2 rb3 : Word) (s : State P) : Result P :=
  let w := commandWord (.fdnBind i rb0 rb1 rb2 rb3)
  withInst P.nFDN i w s fun r =>
    if bindOperandOk P rb0 && bindOperandOk P rb1 && bindOperandOk P rb2 && bindOperandOk P rb3 then
      inPrepare w s <| .next (respond w [] (s.setFdn r { s.fdnAt r with
        line := #v[rb0.setWidth 8, rb1.setWidth 8, rb2.setWidth 8, rb3.setWidth 8]
        bound := true }))
    else .next (refuse w .eInst s)

/-- FDN.SETLEN (R272). -/
def execFdnSetlen (i : Inst) (len0 len1 len2 len3 : Word) (s : State P) : Result P :=
  let w := commandWord (.fdnSetlen i len0 len1 len2 len3)
  withInst P.nFDN i w s fun r =>
    .next (respond w [] (s.setFdn r { s.fdnAt r with len := #v[len0, len1, len2, len3] }))

/-- FDN.SETROT (R273). -/
def execFdnSetrot (i : Inst) (cosT sinT : F32) (s : State P) : Result P :=
  let w := commandWord (.fdnSetrot i cosT sinT)
  withInst P.nFDN i w s fun r =>
    .next (respond w [] (s.setFdn r { s.fdnAt r with cosT := cosT, sinT := sinT }))

/-- FDN.SETDAMP (R274). -/
def execFdnSetdamp (i : Inst) (dampA : F32) (s : State P) : Result P :=
  let w := commandWord (.fdnSetdamp i dampA)
  withInst P.nFDN i w s fun r =>
    .next (respond w [] (s.setFdn r { s.fdnAt r with
      dampA := dampA, dampB := fsub (s.draws 0) fOne dampA }).nextDraw)

/-- FDN.SETGAIN (R275). -/
def execFdnSetgain (i : Inst) (in0 in1 in2 in3 w0 w1 w2 w3 : F32) (s : State P) : Result P :=
  let w := commandWord (.fdnSetgain i in0 in1 in2 in3 w0 w1 w2 w3)
  withInst P.nFDN i w s fun r =>
    .next (respond w [] (s.setFdn r { s.fdnAt r with
      inGain := #v[in0, in1, in2, in3], outW := #v[w0, w1, w2, w3] }))

/-! ## The step -/

/-- `rot(p, q)` (R281): `(c·p - s·q, s·p + c·q)`. -/
def rot (q : Nat → Word) (c s x y : F32) : F32 × F32 :=
  (fsub (q 2) (fmul (q 0) c x) (fmul (q 1) s y), fadd (q 5) (fmul (q 3) s x) (fmul (q 4) c y))

/-- Step (2): the pairs (0,1) and (2,3), then (0,2) and (1,3) (R278, R281). -/
def rotateTaps (q : Nat → Word) (c s : F32) (t : Vector F32 4) : Vector F32 4 :=
  let u01 := rot q c s t[0] t[1]
  let u23 := rot (drawsFrom q 6) c s t[2] t[3]
  let v02 := rot (drawsFrom q 12) c s u01.1 u23.1
  let v13 := rot (drawsFrom q 18) c s u01.2 u23.2
  #v[v02.1, v13.1, v02.2, v13.2]

/-- Step (3): the one-pole damping of each rotated path, from the `dz` of the previous step
(R279, R282). -/
def dampTaps (q : Nat → Word) (f : FdnInst) (v : Vector F32 4) : Vector F32 4 :=
  perLine fun k => onePole (drawsFrom q (24 + 3 * k)) f.dampA f.dampB v[k] f.dz[k]

/-- Step (4), the feedback registers: decay times the damped samples (R283). -/
def feedbackRegs (q : Nat → Word) (decay : F32) (dz : Vector F32 4) : Vector F32 4 :=
  perLine fun k => fmul (q (36 + k)) decay dz[k]

/-- Step (4), the line inputs: the input scaled for each line plus its feedback (R283). -/
def lineInputs (q : Nat → Word) (f : FdnInst) (input : F32) (fb : Vector F32 4) : Vector F32 4 :=
  perLine fun k => fadd (q (41 + 2 * k)) (fmul (q (40 + 2 * k)) f.inGain[k] input) fb[k]

/-- Step (6), the wet sum, left to right (R278). -/
def wetSum (q : Nat → Word) (f : FdnInst) (t : Vector F32 4) : F32 :=
  fadd (q 54)
    (fadd (q 52) (fadd (q 50) (fmul (q 48) f.outW[0] t[0]) (fmul (q 49) f.outW[1] t[1]))
      (fmul (q 51) f.outW[2] t[2]))
    (fmul (q 53) f.outW[3] t[3])

/-- The RB instance that is line `k`; a number that is no instance is a fault (log 6). -/
def lineInst (f : FdnInst) (k : Fin 4) : Except Fault (Fin P.nRB) :=
  if h : f.line[k].toNat < P.nRB then .ok ⟨f.line[k].toNat, h⟩ else .error .noSuchLine

/-- The four lines. -/
def lineInsts (f : FdnInst) : Except Fault (Vector (Fin P.nRB) 4) := do
  let l0 ← lineInst f 0
  let l1 ← lineInst f 1
  let l2 ← lineInst f 2
  let l3 ← lineInst f 3
  pure #v[l0, l1, l2, l3]

/-- Every line's buffer is valid (R278, the second check). -/
def linesValid (s : State P) (l : Vector (Fin P.nRB) 4) : Bool :=
  (s.rbAt l[0]).valid && (s.rbAt l[1]).valid && (s.rbAt l[2]).valid && (s.rbAt l[3]).valid

/-- The `F_DELAY` condition of FDN.STEP (R280). -/
def tapsBeyond (s : State P) (f : FdnInst) (l : Vector (Fin P.nRB) 4) : Bool :=
  delayBeyond (s.rbAt l[0]) f.len[0] || delayBeyond (s.rbAt l[1]) f.len[1] ||
    delayBeyond (s.rbAt l[2]) f.len[2] || delayBeyond (s.rbAt l[3]) f.len[3]

/-- Step (1): all four taps, before any write (R278, R279). -/
def readTaps (s : State P) (f : FdnInst) (l : Vector (Fin P.nRB) 4) :
    Except Fault (Vector F32 4) := do
  let t0 ← ringReadInt (s.rbAt l[0]) f.len[0]
  let t1 ← ringReadInt (s.rbAt l[1]) f.len[1]
  let t2 ← ringReadInt (s.rbAt l[2]) f.len[2]
  let t3 ← ringReadInt (s.rbAt l[3]) f.len[3]
  pure #v[t0, t1, t2, t3]

/-- Step (5): the four writes in line order, each advancing its buffer (R278, R279). -/
def writeLines (s : State P) (l : Vector (Fin P.nRB) 4) (x : Vector F32 4) :
    Except Fault (State P) := do
  let s ← ringWriteAt s l[0] x[0]
  let s ← ringWriteAt s l[1] x[1]
  let s ← ringWriteAt s l[2] x[2]
  ringWriteAt s l[3] x[3]

/-- The network's registers after one step on taps `t` (R278 steps (2) to (4)). -/
def fdnAdvance (q : Nat → Word) (decay : F32) (f : FdnInst) (t : Vector F32 4) : FdnInst :=
  let dz := dampTaps q f (rotateTaps q f.cosT f.sinT t)
  { f with dz := dz, fb := feedbackRegs q decay dz }

/-- FDN.STEP (R278). -/
def execFdnStep (i : Inst) (input decay mix : F32) (s : State P) : Result P :=
  let w := commandWord (.fdnStep i input decay mix)
  let q := s.draws
  withInst P.nFDN i w s fun r =>
    let f := s.fdnAt r
    if f.bound then nextOrFault do
      let l ← lineInsts f
      if linesValid s l then
        let t ← readTaps s f l
        let g := fdnAdvance q decay f t
        let s1 ← writeLines s l (lineInputs q f input g.fb)
        let out := mixOut (drawsFrom q 55) (wetSum q f t) input mix
        pure (respond w [out] (((s1.setFdn r g).flagIf (tapsBeyond s f l) .fDelay).flagIf
          (gainOutOfRange decay) .fGain).nextDraw)
      else pure (refuse w .eNobuf s)
    else .next (refuse w .eNobuf s)

end Machine
end Sys2Proof
end

