-- ==== Sys2Proof/Machine/FilterDesigner.lean ====
section
/-! DEFINITION. FD, the filter coefficient designer (41_filter_designer.md). -/

namespace Sys2Proof
namespace Machine

variable {P : Params}

/-- FD.SETPARAM's effect on the registers (R173); the six coefficients are not touched. -/
def fdSetParams (q : Nat → Word) (cutoff sampleRate qual gainDb : F32) (f : FdInst) : FdInst :=
  let omega := fdiv (q 1) (fmul (q 0) fTwoPi cutoff) sampleRate
  { f with
    cutoff := cutoff, sampleRate := sampleRate, q := qual, gainDb := gainDb
    omega := omega
    sn := fsin (q 2) omega
    cs := fcos (q 3) omega
    gain := fpow10 (q 5) (fdiv (q 4) gainDb fTwenty) }

/-! ## Computing (R176, R177, R185, R186) -/

/-- The formula a design gives a shape; FLAT needs none and five shapes have none (R176, R185). -/
def formulaOf? (D : FdDesign) : Shape → Option RawFormula
  | .flat => none
  | .lpf1 => some D.lpf1
  | .hpf1 => some D.hpf1
  | .lpf2 => some D.lpf2
  | .hpf2 => some D.hpf2
  | .apf1 => some D.apf1
  | .apf2 => some D.apf2
  | .bpf => some D.bpf
  | .brf => none
  | .peak => none
  | .lshelf => none
  | .hshelf => none
  | .parametric => none

/-- The registers with these six coefficients. -/
def FdInst.withCoefs (f : FdInst) (a0 a1 a2 b0 b1 b2 : F32) : FdInst :=
  { f with a0 := a0, a1 := a1, a2 := a2, b0 := b0, b1 := b1, b2 := b2 }

/-- `normalize` (R186): the other five divided by `d0`; `b0` is exactly 1 whatever `d0` is. -/
def normalizeCoefs (q : Nat → Word) (raw : RawCoef) (f : FdInst) : FdInst :=
  f.withCoefs (fdiv (q 16) raw.n0 raw.d0) (fdiv (q 17) raw.n1 raw.d0) (fdiv (q 18) raw.n2 raw.d0)
    fOne (fdiv (q 19) raw.d1 raw.d0) (fdiv (q 20) raw.d2 raw.d0)

/-- The identity filter of FLAT (R177). -/
def flatCoefs (f : FdInst) : FdInst := f.withCoefs fOne fZero fZero fOne fZero fZero

/-- FD.COMPUTE's effect on the registers under a design (R176). A shape with no formula writes
nothing (R185). -/
def fdComputeShape (D : FdDesign) (q : Nat → Word) (shape : Shape) (f : FdInst) : FdInst :=
  if shape = .flat then flatCoefs f
  else
    match formulaOf? D shape with
    | some raw => normalizeCoefs q (raw f.sn f.cs f.q) f
    | none => f

/-- The `F_SHAPE` condition: one of the five shapes with no formula (R185). -/
def shapeWithoutFormula : Shape → Bool
  | .brf => true
  | .peak => true
  | .lshelf => true
  | .hshelf => true
  | .parametric => true
  | .flat => false
  | .lpf1 => false
  | .hpf1 => false
  | .lpf2 => false
  | .hpf2 => false
  | .apf1 => false
  | .apf2 => false
  | .bpf => false

/-- The six coefficients in the order FD.GETCOEF answers them (R188). -/
def FdInst.coefs (f : FdInst) : List F32 := [f.a0, f.a1, f.a2, f.b0, f.b1, f.b2]

/-! ## The commands -/

/-- FD.SETPARAM (R173, R175). -/
def execFdSetparam (i : Inst) (cutoff sampleRate q gainDb : F32) (s : State P) : Result P :=
  let w := commandWord (.fdSetparam i cutoff sampleRate q gainDb)
  withInst P.nFD i w s fun r =>
    .next (respond w []
      (((s.setFd r (fdSetParams s.draws cutoff sampleRate q gainDb (s.fdAt r))).flagIf
        (fdParamBad cutoff sampleRate q) .fParam).nextDraw))

/-- FD.COMPUTE (R176) under the given design. -/
def execFdCompute (i : Inst) (shape : Shape) (s : State P) : Result P :=
  let w := commandWord (.fdCompute i shape)
  withInst P.nFD i w s fun r =>
    .next (respond w []
      (((s.setFd r (fdComputeShape P.fdDesign s.draws shape (s.fdAt r))).flagIf
        (shapeWithoutFormula shape) .fShape).nextDraw))

/-- FD.GETCOEF (R188): a copy, no state changed. -/
def execFdGetcoef (i : Inst) (s : State P) : Result P :=
  let w := commandWord (.fdGetcoef i)
  withInst P.nFD i w s fun r => .next (respond w (s.fdAt r).coefs s)

end Machine
end Sys2Proof
end

