-- ==== Sys2Proof/Machine/Oscillator.lean ====
section
/-! DEFINITION. OSC, the phase-accumulator oscillator (42_oscillator.md). The draws of one command:
places 0 to 8 for the phase, from 16 on for the waveform. -/

namespace Sys2Proof
namespace Machine

variable {P : Params}

/-- `wrap(p)` (R204), in its four lines. -/
def wrapPhase (q : Nat → Word) (p : F32) : F32 :=
  let k := ffloor (fdiv (q 4) p fTwoPi)
  let r := fsub (q 6) p (fmul (q 5) fTwoPi k)
  let r := if flt r fZero then fadd (q 7) r fTwoPi else r
  if fge r fTwoPi then fsub (q 8) r fTwoPi else r

/-- `frac(x)` (R205), floor based with the guard against a rounded 1.0. -/
def frac (q : Word) (x : F32) : F32 :=
  let r := fsub q x (ffloor x)
  if fge r fOne then fZero else r

/-- SINE (R210). -/
def waveSine (q : Nat → Word) (angle : F32) : F32 := fsin (q 0) angle

/-- TRIANGLE (R211). -/
def waveTriangle (q : Nat → Word) (angle : F32) : F32 :=
  fmul (q 2) fTriK (fasin (q 1) (fsin (q 0) angle))

/-- PHASOR (R215). -/
def wavePhasor (q : Nat → Word) (angle : F32) : F32 := frac (q 1) (fdiv (q 0) angle fTwoPi)

/-- SAWTOOTH (R212). -/
def waveSawtooth (q : Nat → Word) (angle : F32) : F32 :=
  fsub (q 3) (fmul (q 2) fTwo (frac (q 1) (fdiv (q 0) angle fTwoPi))) fOne

/-- SQUARE (R213): the sign of the sine, `+0` at a zero, the NaN itself otherwise. -/
def waveSquare (q : Nat → Word) (angle : F32) : F32 :=
  let s := fsin (q 0) angle
  if fgt s fZero then fOne
  else if flt s fZero then fneg fOne
  else if feq s fZero then fZero
  else s

/-- Term `k` of TRAPEZOID added to the sum of the lower ones (R214). -/
def trapezoidTerm (q : Nat → Word) (angle acc : F32) (k : Nat) : F32 :=
  let h := u2f (BitVec.ofNat 32 (2 * k + 1))
  fadd (q (4 * k + 3)) acc (fdiv (q (4 * k + 2)) (fsin (q (4 * k + 1)) (fmul (q (4 * k)) h angle)) h)

/-- TRAPEZOID (R214): sixteen odd harmonics, from the lowest up. -/
def waveTrapezoid (q : Nat → Word) (angle : F32) : F32 :=
  (List.range 16).foldl (trapezoidTerm q angle) fZero

/-- PHASOR_INV (R216). -/
def wavePhasorInv (q : Nat → Word) (angle : F32) : F32 :=
  frac (q 2) (fdiv (q 1) (fadd (q 0) angle fPi) fTwoPi)

/-- `wave(W, angle)` (R209). -/
def wave (q : Nat → Word) (wv : Wave) (angle : F32) : F32 :=
  match wv with
  | .sine => waveSine q angle
  | .triangle => waveTriangle q angle
  | .sawtooth => waveSawtooth q angle
  | .square => waveSquare q angle
  | .trapezoid => waveTrapezoid q angle
  | .phasor => wavePhasor q angle
  | .phasorInv => wavePhasorInv q angle

/-- The sample, from the phase before the advance (R201). -/
def oscSample (q : Nat → Word) (wv : Wave) (phaseOffset : F32) (o : OscInst) : F32 :=
  wave (drawsFrom q 16) wv (fadd (q 0) o.phase phaseOffset)

/-- The registers after the advance, with `OSC_PHASE_WRAP` on or off (R201, R204). -/
def oscAdvance (wrapOn : Bool) (q : Nat → Word) (frequency sampleRate : F32) (o : OscInst) : OscInst :=
  let inc := fdiv (q 2) (fmul (q 1) fTwoPi frequency) sampleRate
  let p := fadd (q 3) o.phase inc
  { o with
    phase := if wrapOn then wrapPhase q p else p
    frequency := frequency
    sampleRate := sampleRate }

/-- OSC.PROCESS (R201, R206). -/
def execOscProcess (i : Inst) (wv : Wave) (frequency sampleRate phaseOffset : F32) (s : State P) :
    Result P :=
  let w := commandWord (.oscProcess i wv frequency sampleRate phaseOffset)
  withInst P.nOSC i w s fun r =>
    .next (respond w [oscSample s.draws wv phaseOffset (s.oscAt r)]
      (((s.setOsc r (oscAdvance P.oscPhaseWrap s.draws frequency sampleRate (s.oscAt r))).flagIf
        (oscParamBad sampleRate) .fParam).nextDraw))

end Machine
end Sys2Proof
end

