-- ==== Sys2Proof/Machine/RingBuffer.lean ====
section
/-! DEFINITION. RB, the ring buffer (40_ring_buffer.md). -/

namespace Sys2Proof
namespace Machine

variable {P : Params}

/-- `npot(n)`: the smallest power of two that is `>= n` and `>= 1` (R132). -/
def npot (n : Nat) : Nat := if n ≤ 1 then 1 else 2 ^ (Nat.log2 (n - 1) + 1)

/-- A buffer just created for `n` samples: rounded-up capacity, index 0, every slot `+0` (R131). -/
def freshBuffer (n : Word) : RbInst :=
  { valid := true
    capacity := BitVec.ofNat 32 (npot n.toNat)
    wrapMask := BitVec.ofNat 32 (npot n.toNat) - 1
    writeIndex := 0
    storage := Memory.zeroFilled }

/-- RB.CREATE (R131). A valid instance is replaced. -/
def execRbCreate (i : Inst) (requestedLength : Word) (s : State P) : Result P :=
  let w := commandWord (.rbCreate i requestedLength)
  withInst P.nRB i w s fun r =>
    inPrepare w s <|
      if P.capMax < requestedLength.toNat then .next (refuse w .eCapacity s)
      else .next (respond w [] (s.setRb r (freshBuffer requestedLength)))

/-- RB.DESTROY (R133). Destroying an instance that is not valid changes nothing. -/
def execRbDestroy (i : Inst) (s : State P) : Result P :=
  let w := commandWord (.rbDestroy i)
  withInst P.nRB i w s fun r =>
    inPrepare w s <| .next (respond w [] (s.setRb r RbInst.reset))

/-- RB.WRITE (R136). -/
def execRbWrite (i : Inst) (sample : F32) (s : State P) : Result P :=
  let w := commandWord (.rbWrite i sample)
  withBuffer i w s fun r => nextOrFault do
    let t ← ringWriteAt s r sample
    pure (respond w [] t)

/-- RB.READI (R141): a delay at or beyond the capacity aliases and is flagged (R140). -/
def execRbReadi (i : Inst) (delay : Word) (s : State P) : Result P :=
  let w := commandWord (.rbReadi i delay)
  withBuffer i w s fun r => nextOrFault do
    let v ← ringReadInt (s.rbAt r) delay
    pure (respond w [v] (s.flagIf (delayBeyond (s.rbAt r) delay) .fDelay))

/-- RB.READF (R146). -/
def execRbReadf (i : Inst) (policy : Policy) (delay : F32) (s : State P) : Result P :=
  let w := commandWord (.rbReadf i policy delay)
  withBuffer i w s fun r => nextOrFault do
    let (v, late) ← ringReadFrac s.draws (s.rbAt r) delay policy
    pure (respond w [v] (s.flagIf late .fDelay).nextDraw)

end Machine
end Sys2Proof
end

