-- ==== Sys2Proof/Machine/System.lean ====
section
/-! DEFINITION. SYS, the system commands (46_system.md R300 to R306), accepted in either mode. -/

namespace Sys2Proof
namespace Machine

variable {P : Params}

/-- SYS.RESET (R301): the soft form of reset, answered like any command. -/
def execSysReset (s : State P) : Result P :=
  .next (respond (commandWord .sysReset) [] (resetState s))

/-- SYS.PREPARE (R302). -/
def execSysPrepare (s : State P) : Result P :=
  .next (respond (commandWord .sysPrepare) [] (s.setMode .prepare))

/-- SYS.START (R303). -/
def execSysStart (s : State P) : Result P :=
  .next (respond (commandWord .sysStart) [] (s.setMode .run))

/-- SYS.RDCSR (R304): reading has no side effect. -/
def execSysRdcsr (reg : Csr) (s : State P) : Result P :=
  .next (respond (commandWord (.sysRdcsr reg)) [csrValue s reg] s)

/-- SYS.CLRSTATUS (R305). -/
def execSysClrstatus (mask : Word) (s : State P) : Result P :=
  .next (respond (commandWord (.sysClrstatus mask)) [] (clearStatus mask s))

end Machine
end Sys2Proof
end

