-- ==== Sys2Proof/Machine/AnyHardware.lean ====
section
/-! DEFINITION. The commands of a PDC with any parameters (00_scope.md R8, 93_implementation_defined.md
U5 to U7; log 1): the meanings `exec` calls, at the parameters of the state. `exec` is this function on
the states of this hardware (`exec_eq_execFor`). -/

namespace Sys2Proof
namespace Machine

/-- One command of the PDC with parameters `P`. -/
def execFor {P : Params} (i : Instr) (s : State P) : Result P :=
  match i with
  | .sysReset => execSysReset s
  | .sysPrepare => execSysPrepare s
  | .sysStart => execSysStart s
  | .sysRdcsr reg => execSysRdcsr reg s
  | .sysClrstatus mask => execSysClrstatus mask s
  | .rbCreate r n => execRbCreate r n s
  | .rbDestroy r => execRbDestroy r s
  | .rbWrite r v => execRbWrite r v s
  | .rbReadi r d => execRbReadi r d s
  | .rbReadf r p d => execRbReadf r p d s
  | .fdSetparam r c sr q g => execFdSetparam r c sr q g s
  | .fdCompute r sh => execFdCompute r sh s
  | .fdGetcoef r => execFdGetcoef r s
  | .oscProcess r wv f sr po => execOscProcess r wv f sr po s
  | .smConfig r t sr => execSmConfig r t sr s
  | .smProcess r v t => execSmProcess r v t s
  | .apfProcess r v p x d g => execApfProcess r v p x d g s
  | .combProcess r p x d g m => execCombProcess r p x d g m s
  | .fdnBind r r0 r1 r2 r3 => execFdnBind r r0 r1 r2 r3 s
  | .fdnSetlen r l0 l1 l2 l3 => execFdnSetlen r l0 l1 l2 l3 s
  | .fdnSetrot r c sn => execFdnSetrot r c sn s
  | .fdnSetdamp r a => execFdnSetdamp r a s
  | .fdnSetgain r g0 g1 g2 g3 w0 w1 w2 w3 => execFdnSetgain r g0 g1 g2 g3 w0 w1 w2 w3 s
  | .fdnStep r x d m => execFdnStep r x d m s

end Machine
end Sys2Proof
end

