-- ==== Sys2Proof/Machine/Dispatch.lean ====
section
/-! DEFINITION. One arm per command, each one call of its meaning. -/

namespace Sys2Proof
namespace Machine

def exec (i : Instr) (s : State) : Host.Outcome State Fault Refusal :=
  match i with
  | .sysReset => Sys2Proof.Machine.execSysReset s
  | .sysPrepare => Sys2Proof.Machine.execSysPrepare s
  | .sysStart => Sys2Proof.Machine.execSysStart s
  | .sysRdcsr reg => Sys2Proof.Machine.execSysRdcsr reg s
  | .sysClrstatus mask => Sys2Proof.Machine.execSysClrstatus mask s
  | .rbCreate r n => Sys2Proof.Machine.execRbCreate r n s
  | .rbDestroy r => Sys2Proof.Machine.execRbDestroy r s
  | .rbWrite r v => Sys2Proof.Machine.execRbWrite r v s
  | .rbReadi r d => Sys2Proof.Machine.execRbReadi r d s
  | .rbReadf r p d => Sys2Proof.Machine.execRbReadf r p d s
  | .fdSetparam r c sr q g => Sys2Proof.Machine.execFdSetparam r c sr q g s
  | .fdCompute r sh => Sys2Proof.Machine.execFdCompute r sh s
  | .fdGetcoef r => Sys2Proof.Machine.execFdGetcoef r s
  | .oscProcess r wv f sr po => Sys2Proof.Machine.execOscProcess r wv f sr po s
  | .smConfig r t sr => Sys2Proof.Machine.execSmConfig r t sr s
  | .smProcess r v t => Sys2Proof.Machine.execSmProcess r v t s
  | .apfProcess r v p x d g => Sys2Proof.Machine.execApfProcess r v p x d g s
  | .combProcess r p x d g m => Sys2Proof.Machine.execCombProcess r p x d g m s
  | .fdnBind r r0 r1 r2 r3 => Sys2Proof.Machine.execFdnBind r r0 r1 r2 r3 s
  | .fdnSetlen r l0 l1 l2 l3 => Sys2Proof.Machine.execFdnSetlen r l0 l1 l2 l3 s
  | .fdnSetrot r c sn => Sys2Proof.Machine.execFdnSetrot r c sn s
  | .fdnSetdamp r a => Sys2Proof.Machine.execFdnSetdamp r a s
  | .fdnSetgain r g0 g1 g2 g3 w0 w1 w2 w3 => Sys2Proof.Machine.execFdnSetgain r g0 g1 g2 g3 w0 w1 w2 w3 s
  | .fdnStep r x d m => Sys2Proof.Machine.execFdnStep r x d m s

end Machine
end Sys2Proof
end

