-- ==== Sys2Proof/Machine/Receive.lean ====
section
/-! DEFINITION. Receiving packets (30_encoding.md R90 to R92, 10_state.md R62) and the eight signals
as the host sees them (00_scope.md R6). -/

namespace Sys2Proof
namespace Machine

variable {P : Params}

/-! ## The packet assembly buffer -/

/-- How many operand words are kept (R91). -/
def keptOperands : Nat := 8

/-- The buffer after one more word: the command word first, then operand words, of which only the
first 8 are kept (R62, R91). -/
def PacketBuf.push (b : PacketBuf) (w : Word) : PacketBuf :=
  match b.cmd with
  | none => { cmd := some w, args := [], got := 0 }
  | some c =>
    { cmd := some c, args := if b.args.length < keptOperands then b.args ++ [w] else b.args,
      got := b.got + 1 }

/-- The packet in the buffer, once its last operand word has arrived (R92). -/
def PacketBuf.packet? (b : PacketBuf) : Option (Word × List Word) :=
  match b.cmd with
  | none => none
  | some c => if nargOf c ≤ b.got then some (c, b.args) else none

/-- What receiving comes to: a complete packet and the words after it, or a packet still open. -/
inductive Received where
  | packet (w : Word) (args : List Word) (rest : List Word)
  | waiting (b : PacketBuf)
deriving DecidableEq, Repr

/-- Words move from the command stream into the buffer until a packet is complete (R91, R92). -/
def receive (b : PacketBuf) : List Word → Received
  | [] =>
    match b.packet? with
    | some p => .packet p.1 p.2 []
    | none => .waiting b
  | w :: ws =>
    match b.packet? with
    | some p => .packet p.1 p.2 (w :: ws)
    | none => receive (b.push w) ws

/-- The state from which a received packet runs: its words consumed, the buffer empty. -/
def State.afterPacket (s : State P) (rest : List Word) : State P :=
  (s.setPkt PacketBuf.empty).setCmdIn rest

/-- The state while a packet is still open: every word offered is in the buffer, nothing else
changed (R62, R92). -/
def State.waitingWith (s : State P) (b : PacketBuf) : State P := (s.setPkt b).setCmdIn []

/-- The state in which the packet with bits `w` is the next on the command stream, in front of what
was there, `rst_n` high and no packet open. -/
def offerPacket (nbits w : Nat) (s : State P) : State P :=
  ((s.setCmdIn (packetOfBits nbits w ++ s.cmdIn)).setPkt PacketBuf.empty).setRstN true

/-! ## The signals (R6, R7), between two steps. A word moves where `valid` and `ready` are both 1. -/

/-- `cmd_ready`: 0 while `rst_n` is low (R350); otherwise words are taken as they come (log 10). -/
def cmdReady (s : State P) : Bool := s.rstN

/-- `rsp_valid`: a response word is offered; never while `rst_n` is low (R350). -/
def rspValid (s : State P) : Bool := s.rstN && !s.rspOut.isEmpty

/-- `rsp_data`: the oldest response word not yet taken, while it is offered. -/
def rspData (s : State P) : Option Word := if rspValid s then s.rspOut.head? else none

/-- The host holds more words ready to offer as `cmd_data`, in this order; a step moves them into the
PDC, and none moves while `cmd_ready` is 0 (log 7). -/
def hostSend (ws : List Word) (s : State P) : State P := s.setCmdIn (s.cmdIn ++ ws)

/-- The host makes `rsp_ready` 1: the word on `rsp_data` moves to it, if `rsp_valid` is 1; otherwise no
word moves (R6, R350). -/
def hostTake (s : State P) : Option (Word × State P) :=
  (rspData s).map fun w => (w, s.setRspOut s.rspOut.tail)

/-- The host drives `rst_n`; `false` asserts it. -/
def driveReset (level : Bool) (s : State P) : State P := s.setRstN level

end Machine
end Sys2Proof
end

