-- ==== Sys2Proof/Machine/Step.lean ====
section
/-! DEFINITION. One step of the PDC (00_scope.md R5; log 7): hard reset while `rst_n` is low,
otherwise the next packet on the command stream received, decoded and executed or refused; with no
complete packet, waiting. `step` is this hardware's, `stepFor` that of a PDC with any parameters
(R8; log 1). -/

namespace Sys2Proof
namespace Machine

/-- Decode and run one complete packet from the state that has consumed it (R97, R324). -/
def runPacket {P : Params} (run : Instr → State P → Result P) (w : Word) (args : List Word)
    (s : State P) : Result P :=
  match decode w args P with
  | .error e => .next (refuse w e s)
  | .ok i => run i s

/-- One step of a PDC whose commands have the meanings `run`. -/
def stepWith {P : Params} (run : Instr → State P → Result P) (s : State P) : Result P :=
  if s.rstN then
    match receive s.pkt s.cmdIn with
    | .packet w args rest => runPacket run w args (s.afterPacket rest)
    | .waiting b => .next (s.waitingWith b)
  else .next (hardReset s)

/-- One step. -/
def step (s : State) : Host.Outcome State Fault Refusal := stepWith exec s

/-- One step of the PDC with parameters `P` (R8). -/
def stepFor {P : Params} (s : State P) : Result P := stepWith execFor s

/-- The state whose very next step runs the packet with bits `w` (log 7). -/
def State.withFetchWord (s : State) (nbits w : Nat) : State := offerPacket nbits w s

end Machine
end Sys2Proof
end

