-- ==== Sys2Proof/Machine/Assembler.lean ====
section
/-! DEFINITION. The assembler syntax of the spec (30_encoding.md R104) and its pseudo-forms (R105):
from one line of text to a command, and a command's text. The machine does not use it. -/

namespace Sys2Proof
namespace Machine

/-! ## Pseudo-forms (R105) -/

/-- `RB.READF i, d` stands for policy HERMITE. -/
def Policy.default : Policy := .hermite

/-- An all-pass with no variant stands for SCHROEDER. -/
def ApfVar.default : ApfVar := .schroeder

/-- `SM.PROCESS i, t` stands for BASIC. -/
def SmVar.default : SmVar := .basic

/-- `FD.COMPUTE i` stands for FLAT. -/
def Shape.default : Shape := .flat

/-! ## Names (R94, R95) -/

def policyNames : List (String × Policy) :=
  [("NONE", .none), ("HERMITE", .hermite), ("LINEAR", .linear), ("LAGRANGE", .lagrange)]

def apfVarNames : List (String × ApfVar) := [("SCHROEDER", .schroeder), ("GERZON", .gerzon)]

def waveNames : List (String × Wave) :=
  [("SINE", .sine), ("TRIANGLE", .triangle), ("SAWTOOTH", .sawtooth), ("SQUARE", .square),
   ("TRAPEZOID", .trapezoid), ("PHASOR", .phasor), ("PHASOR_INV", .phasorInv)]

def shapeNames : List (String × Shape) :=
  [("FLAT", .flat), ("LPF1", .lpf1), ("HPF1", .hpf1), ("LPF2", .lpf2), ("HPF2", .hpf2),
   ("APF1", .apf1), ("APF2", .apf2), ("BPF", .bpf), ("BRF", .brf), ("PEAK", .peak),
   ("LSHELF", .lshelf), ("HSHELF", .hshelf), ("PARAMETRIC", .parametric)]

def smVarNames : List (String × SmVar) := [("BASIC", .basic), ("SNAP", .snap)]

def csrNames : List (String × Csr) :=
  [("ID", .id), ("CFG0", .cfg0), ("CFG1", .cfg1), ("MODE", .mode), ("STATUS", .status),
   ("ERRINFO", .errInfo), ("ERRCODE", .errCode)]

/-- The mnemonics of R94. -/
def opcodeNames : List (String × Opcode) :=
  [("SYS.RESET", .sysReset), ("SYS.PREPARE", .sysPrepare), ("SYS.START", .sysStart),
   ("SYS.RDCSR", .sysRdcsr), ("SYS.CLRSTATUS", .sysClrstatus), ("RB.CREATE", .rbCreate),
   ("RB.DESTROY", .rbDestroy), ("RB.WRITE", .rbWrite), ("RB.READI", .rbReadi),
   ("RB.READF", .rbReadf), ("FD.SETPARAM", .fdSetparam), ("FD.COMPUTE", .fdCompute),
   ("FD.GETCOEF", .fdGetcoef), ("OSC.PROCESS", .oscProcess), ("SM.CONFIG", .smConfig),
   ("SM.PROCESS", .smProcess), ("APF.PROCESS", .apfProcess), ("COMB.PROCESS", .combProcess),
   ("FDN.BIND", .fdnBind), ("FDN.SETLEN", .fdnSetlen), ("FDN.SETROT", .fdnSetrot),
   ("FDN.SETDAMP", .fdnSetdamp), ("FDN.SETGAIN", .fdnSetgain), ("FDN.STEP", .fdnStep)]

/-- The value a table gives a name. -/
def named? {α : Type} (t : List (String × α)) (s : List Char) : Option α :=
  (t.find? fun e => decide (e.1.toList = s)).map Prod.snd

/-- The name a table gives a value. -/
def nameOf {α : Type} [DecidableEq α] (t : List (String × α)) (a : α) : String :=
  ((t.find? fun e => decide (e.2 = a)).map Prod.fst).getD ""

/-! ## Characters -/

/-- The pieces of a text between the separators. -/
def splitAtChar (c : Char) : List Char → List (List Char)
  | [] => [[]]
  | x :: xs =>
    if x = c then [] :: splitAtChar c xs
    else
      match splitAtChar c xs with
      | [] => [[x]]
      | p :: ps => (x :: p) :: ps

/-- A text without the blanks at either end. -/
def trimBlanks (s : List Char) : List Char :=
  ((s.dropWhile fun c => c = ' ').reverse.dropWhile fun c => c = ' ').reverse

/-- A digit in a base up to sixteen. -/
def digit? (base : Nat) (c : Char) : Option Nat :=
  let n :=
    if '0' ≤ c ∧ c ≤ '9' then c.toNat - '0'.toNat
    else if 'a' ≤ c ∧ c ≤ 'f' then c.toNat - 'a'.toNat + 10
    else if 'A' ≤ c ∧ c ≤ 'F' then c.toNat - 'A'.toNat + 10
    else base
  if n < base then some n else none

/-- A non-empty row of digits as a number. -/
def digits? (base : Nat) (s : List Char) : Option Nat :=
  if s = [] then none
  else s.foldl (fun acc c => do pure (base * (← acc) + (← digit? base c))) (some 0)

/-- A number below `2^bits`. -/
def fits? (bits n : Nat) : Option (BitVec bits) :=
  if n < 2 ^ bits then some (BitVec.ofNat bits n) else none

/-! ## Operands (R104) -/

/-- A U32 operand: decimal or `0x` hexadecimal. -/
def parseU32 (s : List Char) : Option Word :=
  match s with
  | '0' :: 'x' :: h => do fits? 32 (← digits? 16 h)
  | _ => do fits? 32 (← digits? 10 s)

/-- A decimal magnitude as digits over a power of ten. -/
def parseDecimal (s : List Char) : Option (Nat × Nat) :=
  match splitAtChar '.' s with
  | [a] => do pure (← digits? 10 a, 0)
  | [a, b] => do pure (← digits? 10 (a ++ b), b.length)
  | _ => none

/-- An F32 operand: a decimal real, which stands for the nearest binary32, ties to even, or `0x` and
exactly 8 hexadecimal digits. -/
def parseF32 (s : List Char) : Option F32 :=
  match s with
  | '0' :: 'x' :: h => if h.length = 8 then do fits? 32 (← digits? 16 h) else none
  | '-' :: m => do
      let (n, k) ← parseDecimal m
      pure (roundUnits true (n * 2 ^ 149) (10 ^ k))
  | m => do
      let (n, k) ← parseDecimal m
      pure (roundUnits false (n * 2 ^ 149) (10 ^ k))

/-- An instance number: decimal. -/
def parseInst (s : List Char) : Option Inst := do fits? 8 (← digits? 10 s)

/-- The command with this opcode, modifier names and operand texts; the pseudo-forms supply a
modifier that is left out, where R105 allows it. -/
def assembleParts (o : Opcode) (mods args : List (List Char)) : Option Instr :=
  match o, mods, args with
  | .sysReset, [], [] => some .sysReset
  | .sysPrepare, [], [] => some .sysPrepare
  | .sysStart, [], [] => some .sysStart
  | .sysRdcsr, [r], [] => do pure (.sysRdcsr (← named? csrNames r))
  | .sysClrstatus, [], [m] => do pure (.sysClrstatus (← parseU32 m))
  | .rbCreate, [], [i, n] => do pure (.rbCreate (← parseInst i) (← parseU32 n))
  | .rbDestroy, [], [i] => do pure (.rbDestroy (← parseInst i))
  | .rbWrite, [], [i, v] => do pure (.rbWrite (← parseInst i) (← parseF32 v))
  | .rbReadi, [], [i, d] => do pure (.rbReadi (← parseInst i) (← parseU32 d))
  | .rbReadf, [], [i, d] => do pure (.rbReadf (← parseInst i) Policy.default (← parseF32 d))
  | .rbReadf, [p], [i, d] => do
      pure (.rbReadf (← parseInst i) (← named? policyNames p) (← parseF32 d))
  | .fdSetparam, [], [i, c, r, q, g] => do
      pure (.fdSetparam (← parseInst i) (← parseF32 c) (← parseF32 r) (← parseF32 q) (← parseF32 g))
  | .fdCompute, [], [i] => do pure (.fdCompute (← parseInst i) Shape.default)
  | .fdCompute, [sh], [i] => do pure (.fdCompute (← parseInst i) (← named? shapeNames sh))
  | .fdGetcoef, [], [i] => do pure (.fdGetcoef (← parseInst i))
  | .oscProcess, [wv], [i, f, r, p] => do
      pure (.oscProcess (← parseInst i) (← named? waveNames wv) (← parseF32 f) (← parseF32 r)
        (← parseF32 p))
  | .smConfig, [], [i, t, r] => do
      pure (.smConfig (← parseInst i) (← parseF32 t) (← parseF32 r))
  | .smProcess, [], [i, t] => do pure (.smProcess (← parseInst i) SmVar.default (← parseF32 t))
  | .smProcess, [v], [i, t] => do
      pure (.smProcess (← parseInst i) (← named? smVarNames v) (← parseF32 t))
  | .apfProcess, [], [i, x, d, g] => do
      pure (.apfProcess (← parseInst i) ApfVar.default Policy.default (← parseF32 x) (← parseF32 d)
        (← parseF32 g))
  | .apfProcess, [p], [i, x, d, g] => do
      pure (.apfProcess (← parseInst i) ApfVar.default (← named? policyNames p) (← parseF32 x)
        (← parseF32 d) (← parseF32 g))
  | .apfProcess, [p, v], [i, x, d, g] => do
      pure (.apfProcess (← parseInst i) (← named? apfVarNames v) (← named? policyNames p)
        (← parseF32 x) (← parseF32 d) (← parseF32 g))
  | .combProcess, [], [i, x, d, g, m] => do
      pure (.combProcess (← parseInst i) Policy.default (← parseF32 x) (← parseF32 d) (← parseF32 g)
        (← parseF32 m))
  | .combProcess, [p], [i, x, d, g, m] => do
      pure (.combProcess (← parseInst i) (← named? policyNames p) (← parseF32 x) (← parseF32 d)
        (← parseF32 g) (← parseF32 m))
  | .fdnBind, [], [i, a, b, c, d] => do
      pure (.fdnBind (← parseInst i) (← parseU32 a) (← parseU32 b) (← parseU32 c) (← parseU32 d))
  | .fdnSetlen, [], [i, a, b, c, d] => do
      pure (.fdnSetlen (← parseInst i) (← parseU32 a) (← parseU32 b) (← parseU32 c) (← parseU32 d))
  | .fdnSetrot, [], [i, c, s] => do
      pure (.fdnSetrot (← parseInst i) (← parseF32 c) (← parseF32 s))
  | .fdnSetdamp, [], [i, a] => do pure (.fdnSetdamp (← parseInst i) (← parseF32 a))
  | .fdnSetgain, [], [i, a, b, c, d, e, f, g, h] => do
      pure (.fdnSetgain (← parseInst i) (← parseF32 a) (← parseF32 b) (← parseF32 c) (← parseF32 d)
        (← parseF32 e) (← parseF32 f) (← parseF32 g) (← parseF32 h))
  | .fdnStep, [], [i, x, d, m] => do
      pure (.fdnStep (← parseInst i) (← parseF32 x) (← parseF32 d) (← parseF32 m))
  | _, _, _ => none

/-- The command one line stands for (R104): `;` starts a comment, the mnemonic and its modifiers are
joined by dots, operands are separated by commas. -/
def assemble (line : List Char) : Option Instr :=
  let text := trimBlanks (line.takeWhile fun c => c ≠ ';')
  let head := text.takeWhile fun c => c ≠ ' '
  let tail := trimBlanks (text.dropWhile fun c => c ≠ ' ')
  let args := if tail = [] then [] else (splitAtChar ',' tail).map trimBlanks
  match splitAtChar '.' head with
  | u :: f :: mods => do
      let o ← named? opcodeNames (u ++ '.' :: f)
      assembleParts o mods args
  | _ => none

/-! ## Text of a command -/

/-- A word as `0x` and 8 hexadecimal digits, legal for either operand type. -/
def hexWord (w : Word) : String :=
  let d := fun k => Nat.digitChar (w.toNat / 16 ^ k % 16)
  String.ofList ['0', 'x', d 7, d 6, d 5, d 4, d 3, d 2, d 1, d 0]

/-- The modifier names, the policy before the variant (R104). -/
def modifierText : Instr → String
  | .sysRdcsr r => "." ++ nameOf csrNames r
  | .rbReadf _ p _ => "." ++ nameOf policyNames p
  | .fdCompute _ sh => "." ++ nameOf shapeNames sh
  | .oscProcess _ wv _ _ _ => "." ++ nameOf waveNames wv
  | .smProcess _ v _ => "." ++ nameOf smVarNames v
  | .apfProcess _ v p _ _ _ => "." ++ nameOf policyNames p ++ "." ++ nameOf apfVarNames v
  | .combProcess _ p _ _ _ _ => "." ++ nameOf policyNames p
  | .sysReset => ""
  | .sysPrepare => ""
  | .sysStart => ""
  | .sysClrstatus _ => ""
  | .rbCreate _ _ => ""
  | .rbDestroy _ => ""
  | .rbWrite _ _ => ""
  | .rbReadi _ _ => ""
  | .fdSetparam _ _ _ _ _ => ""
  | .fdGetcoef _ => ""
  | .smConfig _ _ _ => ""
  | .fdnBind _ _ _ _ _ => ""
  | .fdnSetlen _ _ _ _ _ => ""
  | .fdnSetrot _ _ _ => ""
  | .fdnSetdamp _ _ => ""
  | .fdnSetgain _ _ _ _ _ _ _ _ _ => ""
  | .fdnStep _ _ _ _ => ""

/-- The SYS commands have no instance operand (R104). -/
def hasInstOperand (o : Opcode) : Bool := decide (16 ≤ o.code.toNat)

/-- A command in the syntax of R104. -/
def asmText (i : Instr) : String :=
  let inst := if hasInstOperand i.opcode then [toString i.inst.toNat] else []
  let ops := inst ++ i.operands.map hexWord
  let head := nameOf opcodeNames i.opcode ++ modifierText i
  if ops = [] then head else head ++ " " ++ ", ".intercalate ops

end Machine
end Sys2Proof
end

