-- ==== Sys2Proof/Safety.lean ====
section
/-! DEFINITION. The invariant of the PDC, from the rules that state one, and what a safe outcome is
(60_exceptions.md R320: nothing stops the PDC). -/

namespace Sys2Proof
namespace Machine

variable {P : Params}

/-- The invariants of a ring buffer (10_state.md R35, R36, R37): while valid, `capacity` is a power
of two not above `CAP_MAX`, `wrapMask = capacity - 1`, `writeIndex < capacity`; while not valid the
three registers are 0. Its storage is canonical and lists slots below `capacity` only. -/
def RbInst.Inv (r : RbInst) (P : Params := thisHardware) : Prop :=
  (r.valid = true → ∃ k ≤ P.capLog2Max, r.capacity.toNat = 2 ^ k ∧
      r.wrapMask.toNat = 2 ^ k - 1 ∧ r.writeIndex.toNat < 2 ^ k) ∧
  (r.valid = false → r = RbInst.reset) ∧
  Memory.wf r.storage = true ∧
  ∀ c ∈ r.storage, c.1 < r.capacity.toNat

/-- Every line of a network is the number of an RB instance (45_fdn.md R270). -/
def FdnInst.Inv (f : FdnInst) (P : Params := thisHardware) : Prop := ∀ k : Fin 4, f.line[k].toNat < P.nRB

/-- The error record is empty while `F_CMD` is 0 (R57, R324). -/
def ErrRecordInv (s : State P) : Prop := s.hasFlag .fCmd = false → s.errInfo = 0 ∧ s.errCode = 0

/-- The packet assembly buffer holds an open packet: fewer operand words than it needs, the first 8
of them kept (R62, R91, R92). -/
def PacketBuf.Inv (b : PacketBuf) : Prop :=
  (b.cmd = none → b = PacketBuf.empty) ∧
  (∀ c, b.cmd = some c → b.got < nargOf c ∧ b.args.length = min b.got keptOperands)

/-- The invariant every step keeps. -/
structure State.Inv (s : State P) : Prop where
  rb  : ∀ i, (s.rbAt i).Inv P
  fdn : ∀ i, (s.fdnAt i).Inv P
  err : ErrRecordInv s
  pkt : s.pkt.Inv

/-- A safe outcome: the machine goes on. -/
def Safe (r : Result P) : Prop := ∃ t, r = .next t

/-! ## Frames -/

/-- The parts of the state a frame can name. -/
inductive Part where
  | rb | fd | osc | sm | fdn | mode | status | err | pkt | cmdIn | rspOut | rstN | draw
deriving DecidableEq, Repr

/-- `t` is `s` except in the named parts. -/
structure SameBut (ps : List Part) (s t : State P) : Prop where
  rb      : Part.rb ∉ ps → t.rb = s.rb
  fd      : Part.fd ∉ ps → t.fd = s.fd
  osc     : Part.osc ∉ ps → t.osc = s.osc
  sm      : Part.sm ∉ ps → t.sm = s.sm
  fdn     : Part.fdn ∉ ps → t.fdn = s.fdn
  mode    : Part.mode ∉ ps → t.mode = s.mode
  status  : Part.status ∉ ps → t.status = s.status
  errInfo : Part.err ∉ ps → t.errInfo = s.errInfo
  errCode : Part.err ∉ ps → t.errCode = s.errCode
  pkt     : Part.pkt ∉ ps → t.pkt = s.pkt
  cmdIn   : Part.cmdIn ∉ ps → t.cmdIn = s.cmdIn
  rspOut  : Part.rspOut ∉ ps → t.rspOut = s.rspOut
  rstN    : Part.rstN ∉ ps → t.rstN = s.rstN
  draw    : Part.draw ∉ ps → t.nanEpoch = s.nanEpoch

/-- The accepted command `i` was answered with these result words, after everything already on the
response stream (30_encoding.md R100). -/
def Answered (i : Instr) (results : List Word) (s t : State P) : Prop :=
  t.rspOut = s.rspOut ++ acceptedPacket (commandWord i) results

/-- The commands the source calls the hot path (60_exceptions.md R347). -/
def hotPath : Instr → Bool
  | .rbWrite _ _ => true
  | .rbReadi _ _ => true
  | .rbReadf _ _ _ => true
  | .oscProcess _ _ _ _ _ => true
  | .smProcess _ _ _ => true
  | .apfProcess _ _ _ _ _ _ => true
  | .combProcess _ _ _ _ _ _ => true
  | .fdnStep _ _ _ _ => true
  | .sysReset => false
  | .sysPrepare => false
  | .sysStart => false
  | .sysRdcsr _ => false
  | .sysClrstatus _ => false
  | .rbCreate _ _ => false
  | .rbDestroy _ => false
  | .fdSetparam _ _ _ _ _ => false
  | .fdCompute _ _ => false
  | .fdGetcoef _ => false
  | .smConfig _ _ _ => false
  | .fdnBind _ _ _ _ _ => false
  | .fdnSetlen _ _ _ _ _ => false
  | .fdnSetrot _ _ _ => false
  | .fdnSetdamp _ _ => false
  | .fdnSetgain _ _ _ _ _ _ _ _ _ => false

/-! ## What statements speak of -/

/-- Number of result words of an accepted command (30_encoding.md R94, column results). -/
def resultCount : Instr → Nat
  | .sysRdcsr _ => 1
  | .rbReadi _ _ => 1
  | .rbReadf _ _ _ => 1
  | .fdGetcoef _ => 6
  | .oscProcess _ _ _ _ _ => 1
  | .smProcess _ _ _ => 1
  | .apfProcess _ _ _ _ _ _ => 1
  | .combProcess _ _ _ _ _ _ => 1
  | .fdnStep _ _ _ _ => 1
  | .sysReset => 0
  | .sysPrepare => 0
  | .sysStart => 0
  | .sysClrstatus _ => 0
  | .rbCreate _ _ => 0
  | .rbDestroy _ => 0
  | .rbWrite _ _ => 0
  | .fdSetparam _ _ _ _ _ => 0
  | .fdCompute _ _ => 0
  | .smConfig _ _ _ => 0
  | .fdnBind _ _ _ _ _ => 0
  | .fdnSetlen _ _ _ _ _ => 0
  | .fdnSetrot _ _ _ => 0
  | .fdnSetdamp _ _ => 0
  | .fdnSetgain _ _ _ _ _ _ _ _ _ => 0

/-- The commands RUN mode refuses (60_exceptions.md R341). -/
def prepareOnly : Instr → Bool
  | .rbCreate _ _ => true
  | .rbDestroy _ => true
  | .fdnBind _ _ _ _ _ => true
  | .sysReset => false
  | .sysPrepare => false
  | .sysStart => false
  | .sysRdcsr _ => false
  | .sysClrstatus _ => false
  | .rbWrite _ _ => false
  | .rbReadi _ _ => false
  | .rbReadf _ _ _ => false
  | .fdSetparam _ _ _ _ _ => false
  | .fdCompute _ _ => false
  | .fdGetcoef _ => false
  | .oscProcess _ _ _ _ _ => false
  | .smConfig _ _ _ => false
  | .smProcess _ _ _ => false
  | .apfProcess _ _ _ _ _ _ => false
  | .combProcess _ _ _ _ _ _ => false
  | .fdnSetlen _ _ _ _ _ => false
  | .fdnSetrot _ _ _ => false
  | .fdnSetdamp _ _ => false
  | .fdnSetgain _ _ _ _ _ _ _ _ _ => false
  | .fdnStep _ _ _ _ => false

/-- `RB[n].valid`; a number that is no instance counts as not valid. -/
def validAt (s : State P) (n : Nat) : Bool :=
  if h : n < P.nRB then (s.rbAt ⟨n, h⟩).valid else false

/-- `FDN[n]` is bound and its four lines are valid (45_fdn.md R278). -/
def networkReady (s : State P) (n : Nat) : Bool :=
  if h : n < P.nFDN then
    (s.fdnAt ⟨n, h⟩).bound &&
      decide (∀ k : Fin 4, validAt s (s.fdnAt ⟨n, h⟩).line[k].toNat = true)
  else false

/-- The buffers a command needs are there: step 6 of R322. -/
def buffersReady (s : State P) : Instr → Bool
  | .rbWrite i _ => validAt s i.toNat
  | .rbReadi i _ => validAt s i.toNat
  | .rbReadf i _ _ => validAt s i.toNat
  | .apfProcess i _ _ _ _ _ => validAt s i.toNat
  | .combProcess i _ _ _ _ _ => validAt s i.toNat
  | .fdnStep i _ _ _ => networkReady s i.toNat
  | .sysReset => true
  | .sysPrepare => true
  | .sysStart => true
  | .sysRdcsr _ => true
  | .sysClrstatus _ => true
  | .rbCreate _ _ => true
  | .rbDestroy _ => true
  | .fdSetparam _ _ _ _ _ => true
  | .fdCompute _ _ => true
  | .fdGetcoef _ => true
  | .oscProcess _ _ _ _ _ => true
  | .smConfig _ _ _ => true
  | .smProcess _ _ _ => true
  | .fdnBind _ _ _ _ _ => true
  | .fdnSetlen _ _ _ _ _ => true
  | .fdnSetrot _ _ _ => true
  | .fdnSetdamp _ _ => true
  | .fdnSetgain _ _ _ _ _ _ _ _ _ => true

/-- Step 7 of R322: the requested length fits. -/
def capacityFits (i : Instr) (P : Params := thisHardware) : Bool :=
  match i with
  | .rbCreate _ n => decide (n.toNat ≤ 2 ^ P.capLog2Max)
  | .sysReset => true
  | .sysPrepare => true
  | .sysStart => true
  | .sysRdcsr _ => true
  | .sysClrstatus _ => true
  | .rbDestroy _ => true
  | .rbWrite _ _ => true
  | .rbReadi _ _ => true
  | .rbReadf _ _ _ => true
  | .fdSetparam _ _ _ _ _ => true
  | .fdCompute _ _ => true
  | .fdGetcoef _ => true
  | .oscProcess _ _ _ _ _ => true
  | .smConfig _ _ _ => true
  | .smProcess _ _ _ => true
  | .apfProcess _ _ _ _ _ _ => true
  | .combProcess _ _ _ _ _ _ => true
  | .fdnBind _ _ _ _ _ => true
  | .fdnSetlen _ _ _ _ _ => true
  | .fdnSetrot _ _ _ => true
  | .fdnSetdamp _ _ => true
  | .fdnSetgain _ _ _ _ _ _ _ _ _ => true
  | .fdnStep _ _ _ _ => true

/-- The error code of steps 5 to 7 of R322, the first that fails. -/
def refusalOf (s : State P) (i : Instr) : Option CmdError :=
  if prepareOnly i ∧ s.mode = .run then some .eMode
  else if buffersReady s i = false then some .eNobuf
  else if capacityFits i P = false then some .eCapacity
  else none

/-- What a refused command does, and nothing else (60_exceptions.md R324): `F_CMD` set, the first
refusal since it was 0 recorded, and a header with the code and no result words. -/
structure RefusedAs (w : Word) (e : CmdError) (s t : State P) : Prop where
  frame   : SameBut [.status, .err, .rspOut] s t
  flag    : t.status = s.status ||| 0b10000
  first   : s.status.getLsbD 4 = false → t.errInfo = w ∧ t.errCode = e.code
  later   : s.status.getLsbD 4 = true → t.errInfo = s.errInfo ∧ t.errCode = s.errCode
  answer  : t.rspOut = s.rspOut ++ [opcOf w ++ instOf w ++ e.code ++ (0 : BitVec 8)]

/-- The reset values of 10_state.md R65, row by row; sample storage has none. -/
structure AtReset (t : State P) : Prop where
  mode    : t.mode = .prepare
  status  : t.status = 0
  errInfo : t.errInfo = 0
  errCode : t.errCode = 0
  rb      : ∀ j, (t.rbAt j).valid = false ∧ (t.rbAt j).capacity = 0 ∧ (t.rbAt j).wrapMask = 0 ∧
              (t.rbAt j).writeIndex = 0
  fd      : ∀ j, t.fdAt j = ⟨0, 0, 0, 0, 0, 0, 0, 0, 0, 0, 0, 0, 0, 0⟩
  osc     : ∀ j, t.oscAt j = ⟨0, 0, 0⟩
  sm      : ∀ j, t.smAt j = { a := 0, b := 0x3F800000, z := 0, zPrev := 0 }
  bound   : ∀ j, (t.fdnAt j).bound = false ∧ ∀ k : Fin 4, (t.fdnAt j).line[k] = 0 ∧
              (t.fdnAt j).len[k] = 0
  ones    : ∀ j, (t.fdnAt j).cosT = 0x3F800000 ∧ (t.fdnAt j).dampB = 0x3F800000
  zeros   : ∀ j, (t.fdnAt j).sinT = 0 ∧ (t.fdnAt j).dampA = 0 ∧ ∀ k : Fin 4,
              (t.fdnAt j).inGain[k] = 0 ∧ (t.fdnAt j).outW[k] = 0 ∧ (t.fdnAt j).dz[k] = 0 ∧
              (t.fdnAt j).fb[k] = 0
  pkt     : t.pkt = { cmd := none, args := [], got := 0 }

/-- The command the next step runs, if it runs one. -/
def nextCommand (s : State P) : Option Instr :=
  if s.rstN then
    match receive s.pkt s.cmdIn with
    | .packet w args _ => (decode w args P).toOption
    | .waiting _ => none
  else none

/-- The bits a flag adds to `STATUS` under a condition (10_state.md R56). -/
def raised (c : Bool) (f : Flag) : BitVec 5 := if c then f.mask else 0

/-- The sample at integer delay `d`, by arithmetic: the slot is `writeIndex - d` modulo 2^32, then
modulo the capacity (40_ring_buffer.md R134, R140). -/
def RbInst.sampleAt (b : RbInst) (d : Word) : Word :=
  Memory.read b.storage ((b.writeIndex.toNat + (2 ^ 32 - d.toNat)) % 2 ^ 32 % b.capacity.toNat)

/-- `b'` is `b` after `rb_write` of `v` (40_ring_buffer.md R135): one slot, then the index. -/
structure WroteTo (b b' : RbInst) (v : F32) : Prop where
  valid    : b'.valid = b.valid
  capacity : b'.capacity = b.capacity
  wrapMask : b'.wrapMask = b.wrapMask
  index    : b'.writeIndex.toNat = (b.writeIndex.toNat + 1) % b.capacity.toNat
  stored   : Memory.read b'.storage b.writeIndex.toNat = v
  others   : ∀ k, k ≠ b.writeIndex.toNat → Memory.read b'.storage k = Memory.read b.storage k

/-- `t` is `s` after `rb_write` of `v` on instance `r`, every other instance as it was. -/
structure WroteAt (r : Fin P.nRB) (v : F32) (s t : State P) : Prop where
  wrote : WroteTo (s.rbAt r) (t.rbAt r) v
  rest  : ∀ j, j ≠ r → t.rbAt j = s.rbAt j
  frame : SameBut [.rb] s t

/-- The buffer after these writes, the oldest first (40_ring_buffer.md R137). -/
def writeAll (b : RbInst) : List F32 → Except Fault RbInst
  | [] => .ok b
  | v :: vs => do
      let b' ← ringWrite b v
      writeAll b' vs

/-- The sample a read at delay `d` returns after the writes `vs` to a fresh buffer of capacity `c`
(40_ring_buffer.md R137): `v_(m + 1 - d')` with `d' = ((d - 1) mod c) + 1`, or the zero-fill. -/
def historySample (vs : List F32) (c : Nat) (d : Word) : F32 :=
  let d' := (((d.toNat : Int) - 1) % (c : Int) + 1).toNat
  if d' ≤ vs.length then vs.getD (vs.length - d') fZero else fZero

/-- The value of a fractional read from the samples at the integer delays around `n` (R144, R145). -/
def RbInst.readAt (q : Nat → Word) (b : RbInst) (n : Word) (f : F32) : Policy → F32
  | .none => b.sampleAt n
  | .linear => interpLinear q (b.sampleAt n) (b.sampleAt (n + 1)) f
  | .hermite =>
      interpHermite q (b.sampleAt (n - 1)) (b.sampleAt n) (b.sampleAt (n + 1)) (b.sampleAt (n + 2)) f
  | .lagrange =>
      interpLagrange q (b.sampleAt (n - 1)) (b.sampleAt n) (b.sampleAt (n + 1)) (b.sampleAt (n + 2)) f

/-- The instances of RB a command may change (20_memory.md R73). -/
def namesRb (s : State P) (i : Instr) (j : Fin P.nRB) : Bool :=
  match i with
  | .rbCreate n _ => decide (n.toNat = j.val)
  | .rbDestroy n => decide (n.toNat = j.val)
  | .rbWrite n _ => decide (n.toNat = j.val)
  | .apfProcess n _ _ _ _ _ => decide (n.toNat = j.val)
  | .combProcess n _ _ _ _ _ => decide (n.toNat = j.val)
  | .fdnStep n _ _ _ =>
      if h : n.toNat < P.nFDN then
        decide (∃ k : Fin 4, (s.fdnAt ⟨n.toNat, h⟩).line[k].toNat = j.val)
      else false
  | .sysReset => true
  | .sysPrepare => false
  | .sysStart => false
  | .sysRdcsr _ => false
  | .sysClrstatus _ => false
  | .rbReadi _ _ => false
  | .rbReadf _ _ _ => false
  | .fdSetparam _ _ _ _ _ => false
  | .fdCompute _ _ => false
  | .fdGetcoef _ => false
  | .oscProcess _ _ _ _ _ => false
  | .smConfig _ _ _ => false
  | .smProcess _ _ _ => false
  | .fdnBind _ _ _ _ _ => false
  | .fdnSetlen _ _ _ _ _ => false
  | .fdnSetrot _ _ _ => false
  | .fdnSetdamp _ _ => false
  | .fdnSetgain _ _ _ _ _ _ _ _ _ => false

/-- The unit of a command, by the high half of its opcode (30_encoding.md R90). -/
def unitOf (i : Instr) : BitVec 4 := i.opcode.code.extractLsb' 4 4

/-- `VAR` and `SEL` are values R94 and R95 list for the opcode. -/
def modifiersLegal (o : Opcode) (var sel : BitVec 4) : Bool :=
  match o with
  | .sysRdcsr => decide (var.toNat = 0 ∧ sel.toNat ≤ 6)
  | .rbReadf => decide (var.toNat = 0 ∧ sel.toNat ≤ 3)
  | .fdCompute => decide (var.toNat = 0 ∧ sel.toNat ≤ 12)
  | .oscProcess => decide (var.toNat = 0 ∧ sel.toNat ≤ 6)
  | .smProcess => decide (var.toNat = 0 ∧ sel.toNat ≤ 1)
  | .apfProcess => decide (var.toNat ≤ 1 ∧ sel.toNat ≤ 3)
  | .combProcess => decide (var.toNat = 0 ∧ sel.toNat ≤ 3)
  | .sysReset => decide (var = 0 ∧ sel = 0)
  | .sysPrepare => decide (var = 0 ∧ sel = 0)
  | .sysStart => decide (var = 0 ∧ sel = 0)
  | .sysClrstatus => decide (var = 0 ∧ sel = 0)
  | .rbCreate => decide (var = 0 ∧ sel = 0)
  | .rbDestroy => decide (var = 0 ∧ sel = 0)
  | .rbWrite => decide (var = 0 ∧ sel = 0)
  | .rbReadi => decide (var = 0 ∧ sel = 0)
  | .fdSetparam => decide (var = 0 ∧ sel = 0)
  | .fdGetcoef => decide (var = 0 ∧ sel = 0)
  | .smConfig => decide (var = 0 ∧ sel = 0)
  | .fdnBind => decide (var = 0 ∧ sel = 0)
  | .fdnSetlen => decide (var = 0 ∧ sel = 0)
  | .fdnSetrot => decide (var = 0 ∧ sel = 0)
  | .fdnSetdamp => decide (var = 0 ∧ sel = 0)
  | .fdnSetgain => decide (var = 0 ∧ sel = 0)
  | .fdnStep => decide (var = 0 ∧ sel = 0)

/-- The instance number is in range for the opcode's unit (R94), and so are FDN.BIND's operands. -/
def instanceLegal (o : Opcode) (inst : Inst) (args : List Word) (P : Params := thisHardware) :
    Bool :=
  decide (inst.toNat < o.instCount P) &&
    (decide (o ≠ .fdnBind) || (args.take 4).all fun a => decide (a.toNat < P.nRB))

/-- Equal but for the sign and payload of a NaN (93_implementation_defined.md U1). -/
def SameNumber (x y : F32) : Prop := x = y ∨ (isNaN x = true ∧ isNaN y = true)

/-- `r` is the binary32 of sign `neg` nearest the magnitude `n / d` (in units of 2^-149), ties to the
even word, an infinity from halfway past the largest finite value on (00_scope.md R13). -/
structure IsRounding (r : F32) (neg : Bool) (n d : Nat) : Prop where
  sign    : signBit r = neg
  notNaN  : isNaN r = false
  nearest : isFinite r = true → ∀ y, isFinite y = true →
    ((ulps r * d : Nat) - (n : Int)).natAbs ≤ ((ulps y * d : Nat) - (n : Int)).natAbs
  even    : isFinite r = true → ∀ y, isFinite y = true → ulps y ≠ ulps r →
    ((ulps r * d : Nat) - (n : Int)).natAbs = ((ulps y * d : Nat) - (n : Int)).natAbs →
      r.getLsbD 0 = false
  overflow : isInf r = true ↔ d * ((2 ^ 25 - 1) * 2 ^ 252) ≤ n

end Machine
end Sys2Proof
end

