-- ==== Sys2Proof/Certificates/Slice0/Obligations.lean ====
section
/-! DEFINITION. The statements for the provers, from the numbered rules of the specification. Where a
command's values can be NaNs, "for some `q`" stands for the free words those NaNs come from (U1): the
statement holds for every choice of them. -/

section

open Sys2Proof Sys2Proof.Machine

/-! ## Encoding -/

/-- R90, R91, R94, R95: a command in range, encoded and followed by any words, decodes to itself, and
exactly the words after its packet are left. -/
def Obligations.DecodeOfEncode : Prop :=
  ∀ (i : Instr) (rest : List Word), i.wf = true →
    decodePacket (encode i ++ rest) = .command i rest

/-- R90, R97: whatever decodes to a command is that command's own encoding, so no bit of a packet is
dropped and no two packets are the same command. -/
def Obligations.EncodeOfDecode : Prop :=
  ∀ (ws rest : List Word) (i : Instr), decodePacket ws = .command i rest →
    i.wf = true ∧ ws = encode i ++ rest

/-- R97: the four checks of the decoder in their order, on any command word and operand words; a word
that passes them is a command, every field of it kept. -/
def Obligations.DecodeCheckOrder : Prop :=
  ∀ (w : Word) (args : List Word),
    ((∀ o : Opcode, o.code ≠ opcOf w) → decode w args = .error .eOpcode) ∧
    ∀ o : Opcode, o.code = opcOf w →
      (nargField w ≠ o.narg → decode w args = .error .eLength) ∧
      (nargField w = o.narg → args.length = nargOf w →
        (modifiersLegal o (varOf w) (selOf w) = false → decode w args = .error .eMod) ∧
        (modifiersLegal o (varOf w) (selOf w) = true →
          (instanceLegal o (instOf w) args = false → decode w args = .error .eInst) ∧
          (instanceLegal o (instOf w) args = true →
            ∃ i : Instr, decode w args = .ok i ∧ i.wf = true ∧ i.opcode = o ∧ commandWord i = w ∧
              i.operands = args)))

/-- R106: the worked encodings, each from the words to the command and from the assembly text to the
words, and the two responses it shows. -/
def Obligations.WorkedPackets : Prop :=
  decodePacket [0x10030001, 0x00000065] = .command (.rbCreate 3 101) [] ∧
  decodePacket [0x12030001, 0x3F800000] = .command (.rbWrite 3 0x3F800000) [] ∧
  decodePacket [0x13030001, 0x00000001] = .command (.rbReadi 3 1) [] ∧
  decodePacket [0x14030101, 0x40200000] = .command (.rbReadf 3 .hermite 0x40200000) [] ∧
  decodePacket [0x14030001, 0x40200000] = .command (.rbReadf 3 .none 0x40200000) [] ∧
  decodePacket [0x21000000] = .command (.fdCompute 0 .flat) [] ∧
  decodePacket [0x22000000] = .command (.fdGetcoef 0) [] ∧
  decodePacket [0x30010503, 0x3F800000, 0x473B8000, 0x00000000] =
    .command (.oscProcess 1 .phasor 0x3F800000 0x473B8000 0) [] ∧
  decodePacket [0x41020101, 0x3F000000] = .command (.smProcess 2 .snap 0x3F000000) [] ∧
  decodePacket [0x50041003, 0x3F800000, 0x40000000, 0x3F000000] =
    .command (.apfProcess 4 .gerzon .none 0x3F800000 0x40000000 0x3F000000) [] ∧
  decodePacket [0x60000004, 0x3F800000, 0x42C80000, 0x3F000000, 0x3F800000] =
    .command (.combProcess 0 .none 0x3F800000 0x42C80000 0x3F000000 0x3F800000) [] ∧
  decodePacket [0x04000400] = .command (.sysRdcsr .status) [] ∧
  decodePacket [0x03000000] = .command .sysStart [] ∧
  (∀ e ∈ [
      ("RB.CREATE 3, 101", [(0x10030001 : Word), 0x00000065]),
      ("RB.WRITE 3, 1.0", [0x12030001, 0x3F800000]),
      ("RB.READI 3, 1", [0x13030001, 0x00000001]),
      ("RB.READF.HERMITE 3, 2.5", [0x14030101, 0x40200000]),
      ("RB.READF.NONE 3, 2.5", [0x14030001, 0x40200000]),
      ("FD.COMPUTE.FLAT 0", [0x21000000]),
      ("FD.GETCOEF 0", [0x22000000]),
      ("OSC.PROCESS.PHASOR 1, 1.0, 48000.0, 0.0",
        [0x30010503, 0x3F800000, 0x473B8000, 0x00000000]),
      ("SM.PROCESS.SNAP 2, 0.5", [0x41020101, 0x3F000000]),
      ("APF.PROCESS.NONE.GERZON 4, 1.0, 2.0, 0.5",
        [0x50041003, 0x3F800000, 0x40000000, 0x3F000000]),
      ("COMB.PROCESS.NONE 0, 1.0, 100.0, 0.5, 1.0",
        [0x60000004, 0x3F800000, 0x42C80000, 0x3F000000, 0x3F800000]),
      ("SYS.RDCSR.STATUS", [0x04000400]),
      ("SYS.START", [0x03000000])],
    (assemble e.1.toList).map encode = some e.2) ∧
  acceptedPacket 0x13030001 [0x3F800000] = [0x13030001, 0x3F800000] ∧
  refusedPacket 0x13030001 .eNobuf = [0x13030600]

/-! ## Receiving and stepping -/

/-- R5, R92: with no packet open and `rst_n` high, when the words on the command stream decode to a
command, one step is that command's execution with its words, and no others, consumed. -/
def Obligations.StepRunsDecodedCommand : Prop :=
  ∀ (s : State) (i : Instr) (rest : List Word), s.rstN = true → s.pkt = PacketBuf.empty →
    decodePacket s.cmdIn = .command i rest → step s = exec i (s.setCmdIn rest)

/-- R97, R324: when they decode to a refusal, one step consumes the whole packet and does what a
refused command does, and nothing else. -/
def Obligations.StepRefusesIllegalPacket : Prop :=
  ∀ (s : State) (w : Word) (e : CmdError) (rest : List Word), s.rstN = true →
    s.pkt = PacketBuf.empty → decodePacket s.cmdIn = .refused w e rest →
      ∃ t, step s = .next t ∧ RefusedAs w e (s.setCmdIn rest) t

/-- R62, R92: a packet that is not complete executes nothing: only the words move into the packet
assembly buffer. Where the words of a stream are cut is not seen: whatever follows, the step is the
one it would have been had all the words been there at once. -/
def Obligations.PartialPacketWaits : Prop :=
  ∀ s : State, s.rstN = true → s.pkt = PacketBuf.empty → decodePacket s.cmdIn = .incomplete →
    ∃ t, step s = .next t ∧ SameBut [.pkt, .cmdIn] s t ∧ t.cmdIn = [] ∧
      ∀ ws, step (hostSend ws t) = step (hostSend ws s)

/-- R100: a completed packet, accepted or refused, is answered by exactly one response packet, after
those of the commands before it, with `OPC` and `INST` copied, the code 0 for an accepted command and
its error code else, and as many result words as it says. -/
def Obligations.EveryPacketAnsweredOnce : Prop :=
  ∀ (s : State) (w : Word) (args rest : List Word), s.Inv → s.rstN = true →
    receive s.pkt s.cmdIn = .packet w args rest →
      ∃ (t : State) (header : Word) (results : List Word), step s = .next t ∧
        t.rspOut = s.rspOut ++ header :: results ∧
        opcOf header = opcOf w ∧ instOf header = instOf w ∧
        (header.extractLsb' 0 8).toNat = results.length ∧
        ((∃ i, decode w args = .ok i ∧ refusalOf s i = none ∧ header.extractLsb' 8 8 = 0 ∧
            results.length = resultCount i) ∨
          (∃ e : CmdError, (decode w args = .error e ∨
              ∃ i, decode w args = .ok i ∧ refusalOf s i = some e) ∧
            header.extractLsb' 8 8 = e.code ∧ results = []))

/-- R320, R322, R324: every command in range completes, whatever its operands hold. The checks of the
mode, the buffers and the capacity are made in that order; the first that fails refuses the command
with its code and nothing but the error record changes, and with none the command is accepted. -/
def Obligations.AcceptedOrRefusedAsChecked : Prop :=
  ∀ (i : Instr) (s : State), i.wf = true → s.Inv →
    ∃ t, exec i s = .next t ∧
      match refusalOf s i with
      | some e => RefusedAs (commandWord i) e s t
      | none => ∃ results, results.length = resultCount i ∧ Answered i results s t

/-! ## The invariant, and that nothing stops the machine -/

/-- R36, R57, R62, R270: the state after reset meets the invariant. -/
def Obligations.ResetMeetsInvariant : Prop := State.reset.Inv

/-- R36, R57, R62, R270: from every state that meets the invariant, a step gives a state that meets
it. -/
def Obligations.StepKeepsInvariant : Prop :=
  ∀ s t : State, s.Inv → step s = .next t → t.Inv

/-- R320, R373: from every state that meets the invariant the machine goes on: no step is a fault or
a refusal of the model. -/
def Obligations.StepNeverStops : Prop := ∀ s : State, s.Inv → Safe (step s)

/-! ## Reset -/

/-- R65: the state after reset, row by row. -/
def Obligations.ResetValues : Prop := AtReset State.reset

/-- R350: while `rst_n` is low every step leaves the reset values, takes no command word and offers no
response word; a response that was partly sent is cut off. That responses of which no word was sent are
dropped too, and that the words the host has not yet handed over stay on its side, is the model's
choice (log 7). -/
def Obligations.HardResetEffect : Prop :=
  ∀ s : State, s.rstN = false →
    ∃ t, step s = .next t ∧ AtReset t ∧ t.rspOut = [] ∧ cmdReady t = false ∧ rspValid t = false ∧
      t.cmdIn = s.cmdIn ∧ t.rstN = false

/-- R301: SYS.RESET leaves every piece of state at its reset value and is answered. That the command
words not yet taken, the responses before it and the pin stay as they are is the model's choice
(log 7). -/
def Obligations.SysResetEffect : Prop :=
  ∀ s : State, ∃ t, exec .sysReset s = .next t ∧ AtReset t ∧
    t.rspOut = s.rspOut ++ [0x01000000] ∧ t.cmdIn = s.cmdIn ∧ t.rstN = s.rstN

/-! ## SYS -/

/-- R302, R303: SYS.PREPARE and SYS.START write the mode and nothing else. -/
def Obligations.ModeCommandsEffect : Prop :=
  ∀ s : State,
    (∃ t, exec .sysPrepare s = .next t ∧ SameBut [.mode, .rspOut] s t ∧ t.mode = .prepare ∧
      t.rspOut = s.rspOut ++ [0x02000000]) ∧
    (∃ t, exec .sysStart s = .next t ∧ SameBut [.mode, .rspOut] s t ∧ t.mode = .run ∧
      t.rspOut = s.rspOut ++ [0x03000000])

/-- R58, R304: SYS.RDCSR answers the value of the named register and changes nothing; the numbers 7 to
15 are refused. The words of CFG0 and CFG1 are R58's fields at the parameter values of this hardware,
which are the model's choice (log 1). -/
def Obligations.ReadRegisterEffect : Prop :=
  (∀ (c : Csr) (s : State), ∃ t, exec (.sysRdcsr c) s = .next t ∧ SameBut [.rspOut] s t ∧
    t.rspOut = s.rspOut ++ [packWord 0x04 0 0 0 1,
      match c with
      | .id => 0x50554107
      | .cfg0 => 0x0F07070F
      | .cfg1 => 0x00011001
      | .mode => if s.mode = .run then 1 else 0
      | .status => BitVec.ofNat 32 s.status.toNat
      | .errInfo => s.errInfo
      | .errCode => BitVec.ofNat 32 s.errCode.toNat]) ∧
  ∀ (n : BitVec 4) (args : List Word), 6 < n.toNat →
    decode (packWord 0x04 0 0 n 0) args = .error .eMod

/-- R305: SYS.CLRSTATUS clears the flags whose mask bits are 1, and with bit 4 the error record;
mask bits above 4 are ignored. -/
def Obligations.ClearStatusEffect : Prop :=
  ∀ (m : Word) (s : State), ∃ t, exec (.sysClrstatus m) s = .next t ∧
    SameBut [.status, .err, .rspOut] s t ∧
    (∀ b, b < 5 → t.status.getLsbD b = (s.status.getLsbD b && !m.getLsbD b)) ∧
    (m.getLsbD 4 = true → t.errInfo = 0 ∧ t.errCode = 0) ∧
    (m.getLsbD 4 = false → t.errInfo = s.errInfo ∧ t.errCode = s.errCode) ∧
    t.rspOut = s.rspOut ++ [0x05000000]

/-! ## Rules over every command -/

/-- R342: PREPARE to RUN only by SYS.START; RUN to PREPARE only by SYS.PREPARE, SYS.RESET or `rst_n`;
the transitions by SYS.START and SYS.PREPARE change no other state. -/
def Obligations.ModeTransitions : Prop :=
  ∀ s t : State, s.Inv → step s = .next t →
    (s.mode = .prepare → t.mode = .run →
      nextCommand s = some .sysStart ∧ SameBut [.mode, .pkt, .cmdIn, .rspOut] s t) ∧
    (s.mode = .run → t.mode = .prepare →
      s.rstN = false ∨ nextCommand s = some .sysReset ∨
        (nextCommand s = some .sysPrepare ∧ SameBut [.mode, .pkt, .cmdIn, .rspOut] s t))

/-- R341: in RUN, RB.CREATE, RB.DESTROY and FDN.BIND are refused with `E_MODE`; in PREPARE they are
not, and no other command is in either mode. -/
def Obligations.PrepareOnlyCommands : Prop :=
  ∀ (i : Instr) (s : State), i.wf = true → s.Inv →
    (prepareOnly i = true ∧ s.mode = .run →
      ∃ t, exec i s = .next t ∧ RefusedAs (commandWord i) .eMode s t) ∧
    (prepareOnly i = false ∨ s.mode = .prepare →
      ∃ t header results, exec i s = .next t ∧ t.rspOut = s.rspOut ++ header :: results ∧
        header.extractLsb' 8 8 ≠ CmdError.eMode.code)

/-- R56, R330: a flag that is set stays set until SYS.CLRSTATUS with its bit, SYS.RESET or `rst_n`
clears it; and each of the four source-derived flags is set by the commands of its row alone. -/
def Obligations.FlagsAreSticky : Prop :=
  ∀ (s t : State) (f : Flag), s.Inv → step s = .next t →
    (s.hasFlag f = true → t.hasFlag f = false →
      s.rstN = false ∨ nextCommand s = some .sysReset ∨
        ∃ m, nextCommand s = some (.sysClrstatus m) ∧ m.setWidth 5 &&& f.mask ≠ 0) ∧
    (s.hasFlag f = false → t.hasFlag f = true → f ≠ .fCmd →
      ∃ i, nextCommand s = some i ∧ i.opcode ∈
        match f with
        | .fDelay => [Opcode.rbReadi, .rbReadf, .apfProcess, .combProcess, .fdnStep]
        | .fGain => [Opcode.apfProcess, .combProcess, .fdnStep]
        | .fShape => [Opcode.fdCompute]
        | .fParam => [Opcode.fdSetparam, .oscProcess, .smConfig]
        | .fCmd => [])

/-- R56, R330: flags are reports, never inputs. Two states that differ in `STATUS` and the error
record alone answer every command alike and still differ in them alone, but for SYS.RDCSR of one of
those registers. -/
def Obligations.FlagsAreNeverInputs : Prop :=
  ∀ (i : Instr) (s s' t : State), s.Inv → SameBut [.status, .err] s s' →
    i ≠ .sysRdcsr .status → i ≠ .sysRdcsr .errInfo → i ≠ .sysRdcsr .errCode →
      exec i s = .next t → ∃ t', exec i s' = .next t' ∧ SameBut [.status, .err] t t'

/-- R347: a hot-path command in range whose buffers were created and lines bound is accepted,
whatever its operands are. -/
def Obligations.HotPathNeverRefused : Prop :=
  ∀ (i : Instr) (s : State), hotPath i = true → i.wf = true → s.Inv → buffersReady s i = true →
    ∃ t results, exec i s = .next t ∧ Answered i results s t ∧ results.length = resultCount i

/-- R84, R348: no hot-path command changes `valid`, `capacity` or `wrapMask` of any ring buffer. -/
def Obligations.HotPathKeepsBufferShape : Prop :=
  ∀ (i : Instr) (s t : State), hotPath i = true → s.Inv → exec i s = .next t →
    ∀ j, (t.rbAt j).valid = (s.rbAt j).valid ∧ (t.rbAt j).capacity = (s.rbAt j).capacity ∧
      (t.rbAt j).wrapMask = (s.rbAt j).wrapMask

/-- R33, R73: a command other than SYS.RESET writes no register or slot of an instance it does not
name: a ring buffer only if it names it, directly or through an FDN's lines, and an instance of
another unit only if it is that unit's command on that number. -/
def Obligations.InstancesAreIndependent : Prop :=
  ∀ (i : Instr) (s t : State), s.Inv → i ≠ .sysReset → exec i s = .next t →
    (∀ j, namesRb s i j = false → t.rbAt j = s.rbAt j) ∧
    (∀ j : Fin thisHardware.nFD, unitOf i ≠ 2 ∨ i.inst.toNat ≠ j.val → t.fdAt j = s.fdAt j) ∧
    (∀ j : Fin thisHardware.nOSC, unitOf i ≠ 3 ∨ i.inst.toNat ≠ j.val → t.oscAt j = s.oscAt j) ∧
    (∀ j : Fin thisHardware.nSM, unitOf i ≠ 4 ∨ i.inst.toNat ≠ j.val → t.smAt j = s.smAt j) ∧
    (∀ j : Fin thisHardware.nFDN, unitOf i ≠ 7 ∨ i.inst.toNat ≠ j.val → t.fdnAt j = s.fdnAt j)

/-! ## RB -/

/-- R71, R72: a write replaces one slot of one buffer, no other slot and no register, keeps the
canonical form, and a read returns the word last written. -/
def Obligations.MemoryReadAfterWrite : Prop :=
  ∀ (b : RbInst) (k : Nat) (v : Word), Memory.wf b.storage = true → b.valid = true →
    k < b.capacity.toNat →
      ∃ b', memWrite b k v = .ok b' ∧ b' = { b with storage := b'.storage } ∧
        Memory.wf b'.storage = true ∧ memRead b' k = .ok v ∧
        ∀ j, j ≠ k → memRead b' j = memRead b j

/-- R132: `npot(n)` is the smallest power of two that is at least `n` and at least 1. -/
def Obligations.CapacityIsSmallestPowerOfTwo : Prop :=
  ∀ n : Nat, (∃ k, npot n = 2 ^ k) ∧ n ≤ npot n ∧ 1 ≤ npot n ∧
    ∀ k, n ≤ 2 ^ k → npot n ≤ 2 ^ k

/-- R131: RB.CREATE, accepted and refused. -/
def Obligations.RbCreateEffect : Prop :=
  ∀ (i : Inst) (n : Word) (s : State) (h : i.toNat < thisHardware.nRB),
    (s.mode = .prepare → n.toNat ≤ thisHardware.capMax →
      ∃ t, exec (.rbCreate i n) s = .next t ∧ SameBut [.rb, .rspOut] s t ∧
        (t.rbAt ⟨i.toNat, h⟩).valid = true ∧
        (t.rbAt ⟨i.toNat, h⟩).capacity.toNat = npot n.toNat ∧
        (t.rbAt ⟨i.toNat, h⟩).wrapMask.toNat = npot n.toNat - 1 ∧
        (t.rbAt ⟨i.toNat, h⟩).writeIndex = 0 ∧
        (∀ k, k < npot n.toNat → memRead (t.rbAt ⟨i.toNat, h⟩) k = .ok 0x00000000) ∧
        (∀ j, j ≠ ⟨i.toNat, h⟩ → t.rbAt j = s.rbAt j) ∧
        Answered (.rbCreate i n) [] s t) ∧
    (s.mode = .run →
      ∃ t, exec (.rbCreate i n) s = .next t ∧
        RefusedAs (commandWord (.rbCreate i n)) .eMode s t) ∧
    (s.mode = .prepare → thisHardware.capMax < n.toNat →
      ∃ t, exec (.rbCreate i n) s = .next t ∧
        RefusedAs (commandWord (.rbCreate i n)) .eCapacity s t)

/-- R133: RB.DESTROY, accepted and refused; on an instance that is not valid it changes nothing. -/
def Obligations.RbDestroyEffect : Prop :=
  ∀ (i : Inst) (s : State) (h : i.toNat < thisHardware.nRB),
    (s.mode = .prepare →
      ∃ t, exec (.rbDestroy i) s = .next t ∧ SameBut [.rb, .rspOut] s t ∧
        (t.rbAt ⟨i.toNat, h⟩).valid = false ∧ (t.rbAt ⟨i.toNat, h⟩).capacity = 0 ∧
        (t.rbAt ⟨i.toNat, h⟩).wrapMask = 0 ∧ (t.rbAt ⟨i.toNat, h⟩).writeIndex = 0 ∧
        (∀ j, j ≠ ⟨i.toNat, h⟩ → t.rbAt j = s.rbAt j) ∧
        ((s.rbAt ⟨i.toNat, h⟩).Inv → (s.rbAt ⟨i.toNat, h⟩).valid = false → t.rb = s.rb) ∧
        Answered (.rbDestroy i) [] s t) ∧
    (s.mode = .run →
      ∃ t, exec (.rbDestroy i) s = .next t ∧ RefusedAs (commandWord (.rbDestroy i)) .eMode s t)

/-- R136: RB.WRITE stores at `writeIndex`, then advances it; any bit pattern is stored unchanged. -/
def Obligations.RbWriteEffect : Prop :=
  ∀ (i : Inst) (v : F32) (s : State) (h : i.toNat < thisHardware.nRB), s.Inv →
    ((s.rbAt ⟨i.toNat, h⟩).valid = true →
      ∃ t, exec (.rbWrite i v) s = .next t ∧ SameBut [.rb, .rspOut] s t ∧
        WroteTo (s.rbAt ⟨i.toNat, h⟩) (t.rbAt ⟨i.toNat, h⟩) v ∧
        (∀ j, j ≠ ⟨i.toNat, h⟩ → t.rbAt j = s.rbAt j) ∧ Answered (.rbWrite i v) [] s t) ∧
    ((s.rbAt ⟨i.toNat, h⟩).valid = false →
      ∃ t, exec (.rbWrite i v) s = .next t ∧ RefusedAs (commandWord (.rbWrite i v)) .eNobuf s t)

/-- R140, R141: RB.READI answers the aliased sample whatever the delay, and flags a delay at or beyond
the capacity; it writes nothing else. -/
def Obligations.RbReadiEffect : Prop :=
  ∀ (i : Inst) (d : Word) (s : State) (h : i.toNat < thisHardware.nRB), s.Inv →
    ((s.rbAt ⟨i.toNat, h⟩).valid = true →
      ∃ t, exec (.rbReadi i d) s = .next t ∧ SameBut [.status, .rspOut] s t ∧
        t.status = s.status |||
          raised (decide ((s.rbAt ⟨i.toNat, h⟩).capacity.toNat ≤ d.toNat)) .fDelay ∧
        Answered (.rbReadi i d) [(s.rbAt ⟨i.toNat, h⟩).sampleAt d] s t ∧
        (s.rbAt ⟨i.toNat, h⟩).sampleAt d = (s.rbAt ⟨i.toNat, h⟩).sampleAt
          (BitVec.ofNat 32 (d.toNat % (s.rbAt ⟨i.toNat, h⟩).capacity.toNat))) ∧
    ((s.rbAt ⟨i.toNat, h⟩).valid = false →
      ∃ t, exec (.rbReadi i d) s = .next t ∧ RefusedAs (commandWord (.rbReadi i d)) .eNobuf s t)

/-- R137: what a read returns in terms of the history of writes since RB.CREATE. -/
def Obligations.ReadReturnsHistory : Prop :=
  ∀ (n : Word) (vs : List F32) (d : Word), n.toNat ≤ thisHardware.capMax →
    ∃ b, writeAll (freshBuffer n) vs = .ok b ∧ b.capacity.toNat = npot n.toNat ∧
      ringReadInt b d = .ok (historySample vs (npot n.toNat) d)

/-- R143: `split` of every binary32 word: the two marked ends, the zeros, and for the delays between
the truncated integer part with the exact fraction, `+0 <= f < 1`. -/
def Obligations.SplitOfDelay : Prop :=
  ∀ (q : Word) (d : F32),
    (isNaN d = true ∨ flt d fZero = true → splitDelay q d = { n := 0, f := 0, bad := true }) ∧
    (fge d 0x4F000000 = true → splitDelay q d = { n := 0x7FFFFFFF, f := 0, bad := true }) ∧
    (isZero d = true → splitDelay q d = { n := 0, f := 0, bad := false }) ∧
    (fgt d fZero = true → flt d 0x4F000000 = true →
      (splitDelay q d).bad = false ∧
      (splitDelay q d).n.toNat * 2 ^ 149 ≤ ulps d ∧
      ulps d < ((splitDelay q d).n.toNat + 1) * 2 ^ 149 ∧
      isFinite (splitDelay q d).f = true ∧ signBit (splitDelay q d).f = false ∧
      ulps (splitDelay q d).f = ulps d - (splitDelay q d).n.toNat * 2 ^ 149)

/-- R144, R145, R146: RB.READF under each policy, with its flag; and R150, R151, R152: the three
interpolators at every fraction, each operation in its order, the clamp of the linear one at a fraction
of 1 and above included. -/
def Obligations.RbReadfEffect : Prop :=
  (∀ (i : Inst) (p : Policy) (d : F32) (s : State) (h : i.toNat < thisHardware.nRB), s.Inv →
    ((s.rbAt ⟨i.toNat, h⟩).valid = true →
      ∃ (q : Nat → Word) (t : State), exec (.rbReadf i p d) s = .next t ∧
        SameBut [.status, .rspOut, .draw] s t ∧
        t.status = s.status ||| raised ((splitDelay (q 31) d).bad || decide
          ((s.rbAt ⟨i.toNat, h⟩).capacity.toNat ≤ (splitDelay (q 31) d).n.toNat)) .fDelay ∧
        Answered (.rbReadf i p d) [(s.rbAt ⟨i.toNat, h⟩).readAt q (splitDelay (q 31) d).n
          (splitDelay (q 31) d).f p] s t) ∧
    ((s.rbAt ⟨i.toNat, h⟩).valid = false →
      ∃ t, exec (.rbReadf i p d) s = .next t ∧
        RefusedAs (commandWord (.rbReadf i p d)) .eNobuf s t)) ∧
  ∀ (q : Nat → Word) (xm1 x0 x1 x2 f : F32),
    (fge f 0x3F800000 = true → interpLinear q x0 x1 f = x1) ∧
    (fge f 0x3F800000 = false →
      interpLinear q x0 x1 f =
        fadd (q 3) (fmul (q 1) x0 (fsub (q 0) 0x3F800000 f)) (fmul (q 2) x1 f)) ∧
    (∀ c v w a bn : F32,
      c = fmul (q 1) (fsub (q 0) x1 xm1) 0x3F000000 → v = fsub (q 2) x0 x1 → w = fadd (q 3) c v →
      a = fadd (q 7) (fadd (q 4) w v) (fmul (q 6) (fsub (q 5) x2 x0) 0x3F000000) →
      bn = fadd (q 8) w a →
        interpHermite q xm1 x0 x1 x2 f =
          fadd (q 14) (fmul (q 13) (fadd (q 12)
            (fmul (q 11) (fsub (q 10) (fmul (q 9) a f) bn) f) c) f) x0) ∧
    ∀ fm1 fm2 fp1 lm1 l0 l1 l2 : F32,
      fm1 = fsub (q 0) f 0x3F800000 → fm2 = fsub (q 1) f 0x40000000 →
      fp1 = fadd (q 2) f 0x3F800000 →
      lm1 = fdiv (q 5) (fneg (fmul (q 4) (fmul (q 3) f fm1) fm2)) 0x40C00000 →
      l0 = fmul (q 8) (fmul (q 7) (fmul (q 6) fp1 fm1) fm2) 0x3F000000 →
      l1 = fmul (q 11) (fneg (fmul (q 10) (fmul (q 9) fp1 f) fm2)) 0x3F000000 →
      l2 = fdiv (q 14) (fmul (q 13) (fmul (q 12) fp1 f) fm1) 0x40C00000 →
        interpLagrange q xm1 x0 x1 x2 f =
          fadd (q 21) (fadd (q 19) (fadd (q 17) (fmul (q 15) xm1 lm1) (fmul (q 16) x0 l0))
            (fmul (q 18) x1 l1)) (fmul (q 20) x2 l2)

/-- R147: policy NONE answers exactly what RB.READI answers at the truncated delay, and sets `F_DELAY`
under the same condition. -/
def Obligations.TruncatedReadIsIntegerRead : Prop :=
  ∀ (i : Inst) (d : F32) (n : Word) (s : State) (h : i.toNat < thisHardware.nRB), s.Inv →
    (s.rbAt ⟨i.toNat, h⟩).valid = true → fge d fZero = true → flt d 0x4F000000 = true →
    n.toNat * 2 ^ 149 ≤ ulps d → ulps d < (n.toNat + 1) * 2 ^ 149 →
      ∃ (v : F32) (t t' : State),
        exec (.rbReadf i .none d) s = .next t ∧ exec (.rbReadi i n) s = .next t' ∧
        Answered (.rbReadf i .none d) [v] s t ∧ Answered (.rbReadi i n) [v] s t' ∧
        t.status = t'.status

/-- R150, R152, R153: at a fraction of `+0` and with the taps they read finite, the linear and the
Lagrange interpolators return a value that compares equal to the sample at the integer delay (a sample
of `-0` may come back as `+0`). -/
def Obligations.IntegralDelayIsExact : Prop :=
  ∀ (q : Nat → Word) (xm1 x0 x1 x2 : F32), isFinite x0 = true → isFinite x1 = true →
    feq (interpLinear q x0 x1 fZero) x0 = true ∧
    (isFinite xm1 = true → isFinite x2 = true →
      feq (interpLagrange q xm1 x0 x1 x2 fZero) x0 = true)

/-- R151, R153: the Hermite interpolator does so too for taps below 2^120 in magnitude. For all finite
taps, as R153 has it, it does not: the slope of two taps of opposite sign near the largest finite
value overflows, and an infinity times the fraction `+0` is a NaN (log 15). -/
def Obligations.IntegralDelayHermite : Prop :=
  (∀ (q : Nat → Word) (xm1 x0 x1 x2 : F32), magBits xm1 < 0x7B800000 → magBits x0 < 0x7B800000 →
    magBits x1 < 0x7B800000 → magBits x2 < 0x7B800000 →
      feq (interpHermite q xm1 x0 x1 x2 fZero) x0 = true) ∧
  ∃ xm1 x0 x1 x2 : F32, isFinite xm1 = true ∧ isFinite x0 = true ∧ isFinite x1 = true ∧
    isFinite x2 = true ∧ ∀ q, isNaN (interpHermite q xm1 x0 x1 x2 fZero) = true

/-! ## FD -/

/-- R173, R175: FD.SETPARAM stores its operands and recomputes the cache; the six coefficients are not
touched; `F_PARAM` for a sample rate, cutoff or Q that is not greater than zero. -/
def Obligations.FdSetparamEffect : Prop :=
  ∀ (i : Inst) (c sr qual g : F32) (s : State) (h : i.toNat < thisHardware.nFD),
    ∃ (q : Nat → Word) (t : State), exec (.fdSetparam i c sr qual g) s = .next t ∧
      SameBut [.fd, .status, .rspOut, .draw] s t ∧
      (∀ j, j ≠ ⟨i.toNat, h⟩ → t.fdAt j = s.fdAt j) ∧
      t.fdAt ⟨i.toNat, h⟩ = { s.fdAt ⟨i.toNat, h⟩ with
        cutoff := c, sampleRate := sr, q := qual, gainDb := g
        omega := fdiv (q 1) (fmul (q 0) 0x40C90FDB c) sr
        sn := fsin (q 2) (fdiv (q 1) (fmul (q 0) 0x40C90FDB c) sr)
        cs := fcos (q 3) (fdiv (q 1) (fmul (q 0) 0x40C90FDB c) sr)
        gain := fpow10 (q 5) (fdiv (q 4) g 0x41A00000) } ∧
      t.status = s.status |||
        raised (!fgt sr fZero || !fgt c fZero || !fgt qual fZero) .fParam ∧
      Answered (.fdSetparam i c sr qual g) [] s t

/-- R176, R177, R185, R186: FD.COMPUTE for every shape: the identity filter for FLAT, the normalised
formula for the seven implemented shapes, nothing and `F_SHAPE` for the five without a formula. Only
the six coefficients are written. The formulas are those of R172 and R178 to R184, the default
`FD_DESIGN`, which is the model's choice (log 8); of a PDC with another `FD_DESIGN` the last clause
speaks (R8, U7). -/
def Obligations.FdComputeEffect : Prop :=
  (∀ (i : Inst) (sh : Shape) (s : State) (h : i.toNat < thisHardware.nFD),
    ∃ (q : Nat → Word) (T u alpha m : F32) (t : State), exec (.fdCompute i sh) s = .next t ∧
      SameBut [.fd, .status, .rspOut, .draw] s t ∧
      (∀ j, j ≠ ⟨i.toNat, h⟩ → t.fdAt j = s.fdAt j) ∧
      (∃ a0 a1 a2 b0 b1 b2, t.fdAt ⟨i.toNat, h⟩ = { s.fdAt ⟨i.toNat, h⟩ with
        a0 := a0, a1 := a1, a2 := a2, b0 := b0, b1 := b1, b2 := b2 }) ∧
      (sh = .flat → (t.fdAt ⟨i.toNat, h⟩).coefs = [0x3F800000, 0, 0, 0x3F800000, 0, 0]) ∧
      T = fadd (q 0) 0x3F800000 (s.fdAt ⟨i.toNat, h⟩).cs ∧
      u = fsub (q 1) 0x3F800000 (s.fdAt ⟨i.toNat, h⟩).cs ∧
      alpha = fdiv (q 3) (s.fdAt ⟨i.toNat, h⟩).sn
        (fmul (q 2) 0x40000000 (s.fdAt ⟨i.toNat, h⟩).q) ∧
      m = fneg (fmul (q 4) 0x40000000 (s.fdAt ⟨i.toNat, h⟩).cs) ∧
      (let sn := (s.fdAt ⟨i.toNat, h⟩).sn
       let D1 : List F32 := [fadd (q 5) T sn, fsub (q 6) sn T, 0x00000000]
       let D2 : List F32 := [fadd (q 5) 0x3F800000 alpha, m, fsub (q 6) 0x3F800000 alpha]
       ∀ n0 n1 n2 d0 d1 d2 : F32,
        (sh, [n0, n1, n2], [d0, d1, d2]) ∈ [
          (Shape.lpf1, [sn, sn, 0x00000000], D1),
          (.hpf1, [T, fneg T, 0x00000000], D1),
          (.lpf2, [fmul (q 7) u 0x3F000000, u, fmul (q 8) u 0x3F000000], D2),
          (.hpf2, [fmul (q 7) T 0x3F000000, fneg T, fmul (q 8) T 0x3F000000], D2),
          (.apf1, [fsub (q 7) sn T, fadd (q 8) T sn, 0x00000000], D1),
          (.apf2, [fsub (q 7) 0x3F800000 alpha, m, fadd (q 8) 0x3F800000 alpha], D2),
          (.bpf, [alpha, 0x00000000, fneg alpha], D2)] →
        (t.fdAt ⟨i.toNat, h⟩).coefs =
          [fdiv (q 16) n0 d0, fdiv (q 17) n1 d0, fdiv (q 18) n2 d0, 0x3F800000, fdiv (q 19) d1 d0,
            fdiv (q 20) d2 d0]) ∧
      (sh ∈ [Shape.brf, .peak, .lshelf, .hshelf, .parametric] →
        t.fdAt ⟨i.toNat, h⟩ = s.fdAt ⟨i.toNat, h⟩) ∧
      t.status = s.status |||
        raised (decide (sh ∈ [Shape.brf, .peak, .lshelf, .hshelf, .parametric])) .fShape ∧
      Answered (.fdCompute i sh) [] s t) ∧
  ∀ (P : Params) (i : Inst) (sh : Shape) (s : State P) (h : i.toNat < P.nFD) (raw : RawFormula),
    formulaOf? P.fdDesign sh = some raw →
      ∃ (q : Nat → Word) (c : RawCoef) (t : State P), execFor (.fdCompute i sh) s = .next t ∧
        c = raw (s.fdAt ⟨i.toNat, h⟩).sn (s.fdAt ⟨i.toNat, h⟩).cs (s.fdAt ⟨i.toNat, h⟩).q ∧
        (t.fdAt ⟨i.toNat, h⟩).coefs =
          [fdiv (q 16) c.n0 c.d0, fdiv (q 17) c.n1 c.d0, fdiv (q 18) c.n2 c.d0, 0x3F800000,
            fdiv (q 19) c.d1 c.d0, fdiv (q 20) c.d2 c.d0]

/-- R187: what holds of FD.COMPUTE for every `FD_DESIGN`, not the default alone: FLAT is the identity,
`b0` is 1 after an implemented shape, a shape without a formula writes nothing, and the coefficients
depend on `sn`, `cs`, `Q` and the shape alone. The free words decide which NaN a NaN coefficient is
and nothing else (U1). -/
def Obligations.FdDesignContract : Prop :=
  ∀ (D : FdDesign) (q : Nat → Word) (sh : Shape) (f g : FdInst),
    (fdComputeShape D q .flat f).coefs = [0x3F800000, 0, 0, 0x3F800000, 0, 0] ∧
    (shapeWithoutFormula sh = false → (fdComputeShape D q sh f).b0 = 0x3F800000) ∧
    (shapeWithoutFormula sh = true → fdComputeShape D q sh f = f) ∧
    (shapeWithoutFormula sh = false → f.sn = g.sn → f.cs = g.cs → f.q = g.q →
      (fdComputeShape D q sh f).coefs = (fdComputeShape D q sh g).coefs ∧
      ∀ r : Nat → Word,
        List.Forall₂ SameNumber (fdComputeShape D q sh f).coefs (fdComputeShape D r sh g).coefs)

/-- R178 to R184: the worked example of each formula, at `sn = 1`, `cs = +0`, `Q = 0.5`, with the
signs of the zeros that the order of operations gives. It holds of the default `FD_DESIGN`, which is
the model's choice for this hardware (log 8). -/
def Obligations.FilterWorkedExamples : Prop :=
  ∀ (i : Inst) (s : State) (h : i.toNat < thisHardware.nFD),
    (s.fdAt ⟨i.toNat, h⟩).sn = 0x3F800000 → (s.fdAt ⟨i.toNat, h⟩).cs = 0 →
    (s.fdAt ⟨i.toNat, h⟩).q = 0x3F000000 →
      ∀ e ∈ [(Shape.lpf1, [(0x3F000000 : Word), 0x3F000000, 0, 0x3F800000, 0, 0]),
          (.hpf1, [0x3F000000, 0xBF000000, 0, 0x3F800000, 0, 0]),
          (.lpf2, [0x3E800000, 0x3F000000, 0x3E800000, 0x3F800000, 0x80000000, 0]),
          (.hpf2, [0x3E800000, 0xBF000000, 0x3E800000, 0x3F800000, 0x80000000, 0]),
          (.apf1, [0, 0x3F800000, 0, 0x3F800000, 0, 0]),
          (.apf2, [0, 0x80000000, 0x3F800000, 0x3F800000, 0x80000000, 0]),
          (.bpf, [0x3F000000, 0, 0xBF000000, 0x3F800000, 0x80000000, 0])],
        ∃ t, exec (.fdCompute i e.1) s = .next t ∧ (t.fdAt ⟨i.toNat, h⟩).coefs = e.2

/-- R188: FD.GETCOEF answers the six coefficients in order and changes no state. -/
def Obligations.FdGetcoefEffect : Prop :=
  ∀ (i : Inst) (s : State) (h : i.toNat < thisHardware.nFD),
    ∃ t, exec (.fdGetcoef i) s = .next t ∧ SameBut [.rspOut] s t ∧
      Answered (.fdGetcoef i) [(s.fdAt ⟨i.toNat, h⟩).a0, (s.fdAt ⟨i.toNat, h⟩).a1,
        (s.fdAt ⟨i.toNat, h⟩).a2, (s.fdAt ⟨i.toNat, h⟩).b0, (s.fdAt ⟨i.toNat, h⟩).b1,
        (s.fdAt ⟨i.toNat, h⟩).b2] s t

/-! ## OSC -/

/-- R201, R204, R206: OSC.PROCESS answers the waveform at the phase before the advance, by the formulas
of R205 and R210 to R216, then advances the phase and wraps it by the four lines of R204; `F_PARAM` for
a sample rate that is not greater than zero, never for a frequency. That this hardware wraps the phase
is the model's choice (`OSC_PHASE_WRAP` on, log 1); with it off the phase is the sum itself, which the
last clause says. -/
def Obligations.OscProcessEffect : Prop :=
  (∀ (i : Inst) (wv : Wave) (f sr po : F32) (s : State) (h : i.toNat < thisHardware.nOSC),
    ∃ (q v : Nat → Word) (angle p k r r' y : F32) (t : State),
      exec (.oscProcess i wv f sr po) s = .next t ∧
      SameBut [.osc, .status, .rspOut, .draw] s t ∧
      (∀ j, j ≠ ⟨i.toNat, h⟩ → t.oscAt j = s.oscAt j) ∧
      p = fadd (q 3) (s.oscAt ⟨i.toNat, h⟩).phase (fdiv (q 2) (fmul (q 1) 0x40C90FDB f) sr) ∧
      k = ffloor (fdiv (q 4) p 0x40C90FDB) ∧
      r = fsub (q 6) p (fmul (q 5) 0x40C90FDB k) ∧
      r' = (if flt r 0x00000000 = true then fadd (q 7) r 0x40C90FDB else r) ∧
      t.oscAt ⟨i.toNat, h⟩ =
        { phase := if fge r' 0x40C90FDB = true then fsub (q 8) r' 0x40C90FDB else r'
          sampleRate := sr, frequency := f } ∧
      angle = fadd (q 0) (s.oscAt ⟨i.toNat, h⟩).phase po ∧
      y = (
        let frac' : Word → F32 → F32 := fun w x =>
          if fge (fsub w x (ffloor x)) 0x3F800000 = true then 0x00000000 else fsub w x (ffloor x)
        match wv with
        | .sine => fsin (v 0) angle
        | .triangle => fmul (v 2) 0x3F22F983 (fasin (v 1) (fsin (v 0) angle))
        | .sawtooth =>
            fsub (v 3) (fmul (v 2) 0x40000000 (frac' (v 1) (fdiv (v 0) angle 0x40C90FDB))) 0x3F800000
        | .square =>
            if fgt (fsin (v 0) angle) 0x00000000 = true then 0x3F800000
            else if flt (fsin (v 0) angle) 0x00000000 = true then 0xBF800000
            else if feq (fsin (v 0) angle) 0x00000000 = true then 0x00000000
            else fsin (v 0) angle
        | .trapezoid =>
            (List.range 16).foldl (fun acc n =>
              fadd (v (4 * n + 3)) acc
                (fdiv (v (4 * n + 2))
                  (fsin (v (4 * n + 1))
                    (fmul (v (4 * n)) (u2f (BitVec.ofNat 32 (2 * n + 1))) angle))
                  (u2f (BitVec.ofNat 32 (2 * n + 1))))) 0x00000000
        | .phasor => frac' (v 1) (fdiv (v 0) angle 0x40C90FDB)
        | .phasorInv => frac' (v 2) (fdiv (v 1) (fadd (v 0) angle 0x40490FDB) 0x40C90FDB)) ∧
      t.status = s.status ||| raised (!fgt sr fZero) .fParam ∧
      Answered (.oscProcess i wv f sr po) [y] s t) ∧
  ∀ (P : Params) (i : Inst) (wv : Wave) (f sr po : F32) (s : State P) (h : i.toNat < P.nOSC),
    P.oscPhaseWrap = false →
      ∃ (q : Nat → Word) (t : State P), execFor (.oscProcess i wv f sr po) s = .next t ∧
        (t.oscAt ⟨i.toNat, h⟩).phase = fadd (q 3) (s.oscAt ⟨i.toNat, h⟩).phase
          (fdiv (q 2) (fmul (q 1) 0x40C90FDB f) sr)

/-- R204: a NaN or infinite sum gives a NaN phase; a NaN phase stays one, and every later sample is a
NaN, whatever the waveform and the operands. -/
def Obligations.NanPhasePersists : Prop :=
  (∀ (q : Nat → Word) (p : F32), isFinite p = false → isNaN (wrapPhase q p) = true) ∧
  ∀ (i : Inst) (wv : Wave) (f sr po : F32) (s : State) (h : i.toNat < thisHardware.nOSC),
    isNaN (s.oscAt ⟨i.toNat, h⟩).phase = true →
      ∃ t y, exec (.oscProcess i wv f sr po) s = .next t ∧
        isNaN (t.oscAt ⟨i.toNat, h⟩).phase = true ∧
        Answered (.oscProcess i wv f sr po) [y] s t ∧ isNaN y = true

/-- R204, R221: a frequency of zero leaves a phase in `[0, 2π)` unchanged, at every sample rate that is
a number and not zero. -/
def Obligations.ZeroFrequencyKeepsPhase : Prop :=
  ∀ (i : Inst) (wv : Wave) (f sr po : F32) (s : State) (h : i.toNat < thisHardware.nOSC),
    isZero f = true → isNaN sr = false → isZero sr = false →
    fge (s.oscAt ⟨i.toNat, h⟩).phase fZero = true →
    flt (s.oscAt ⟨i.toNat, h⟩).phase 0x40C90FDB = true →
      ∃ t, exec (.oscProcess i wv f sr po) s = .next t ∧
        feq (t.oscAt ⟨i.toNat, h⟩).phase (s.oscAt ⟨i.toNat, h⟩).phase = true

/-- R205: `frac` of a finite value is in `[0, 1)`, also where the difference rounds to 1; of a NaN or an
infinity it is a NaN; `frac(-0) = +0`. -/
def Obligations.FractionRange : Prop :=
  ∀ (q : Word) (x : F32),
    (isFinite x = true → fge (frac q x) fZero = true ∧ flt (frac q x) 0x3F800000 = true) ∧
    (isFinite x = false → isNaN (frac q x) = true) ∧
    frac q 0x80000000 = 0x00000000

/-- R210 to R216, R220 (the values are in `OscProcessEffect`): for every finite angle the sine,
triangle and square are in `[-1, 1]`, the sawtooth in `[-1, 1)`, the phasor and its inverse in
`[0, 1)`, whatever `TRANS` is within its properties. The trapezoid has no such bound (U4). -/
def Obligations.WaveformRanges : Prop :=
  ∀ (q : Nat → Word) (angle : F32), isFinite angle = true →
    fle (fabs (wave q .sine angle)) 0x3F800000 = true ∧
    fle (fabs (wave q .triangle angle)) 0x3F800000 = true ∧
    fle (fabs (wave q .square angle)) 0x3F800000 = true ∧
    (fge (wave q .sawtooth angle) 0xBF800000 = true ∧
      flt (wave q .sawtooth angle) 0x3F800000 = true) ∧
    (fge (wave q .phasor angle) fZero = true ∧ flt (wave q .phasor angle) 0x3F800000 = true) ∧
    (fge (wave q .phasorInv angle) fZero = true ∧
      flt (wave q .phasorInv angle) 0x3F800000 = true)

/-! ## SM -/

/-- R231, R233: SM.CONFIG sets the pole and its complement and touches neither `z` nor `z_prev`;
`F_PARAM` for a time or a rate that is not greater than zero. -/
def Obligations.SmConfigEffect : Prop :=
  ∀ (i : Inst) (ms sr : F32) (s : State) (h : i.toNat < thisHardware.nSM),
    ∃ (q : Nat → Word) (t : State), exec (.smConfig i ms sr) s = .next t ∧
      SameBut [.sm, .status, .rspOut, .draw] s t ∧
      (∀ j, j ≠ ⟨i.toNat, h⟩ → t.smAt j = s.smAt j) ∧
      t.smAt ⟨i.toNat, h⟩ = { s.smAt ⟨i.toNat, h⟩ with
        a := fexp (q 3) (fdiv (q 2) (fneg 0x40C90FDB) (fmul (q 1) (fmul (q 0) ms 0x3A83126F) sr))
        b := fsub (q 4) 0x3F800000 (t.smAt ⟨i.toNat, h⟩).a } ∧
      t.status = s.status ||| raised (!fgt ms fZero || !fgt sr fZero) .fParam ∧
      Answered (.smConfig i ms sr) [] s t

/-- R235: SM.PROCESS, both variants: the ramp, the snap, and `z_prev` written by both. -/
def Obligations.SmProcessEffect : Prop :=
  ∀ (i : Inst) (v : SmVar) (x : F32) (s : State) (h : i.toNat < thisHardware.nSM),
    ∃ (q : Nat → Word) (ramp zn : F32) (t : State), exec (.smProcess i v x) s = .next t ∧
      SameBut [.sm, .rspOut, .draw] s t ∧
      (∀ j, j ≠ ⟨i.toNat, h⟩ → t.smAt j = s.smAt j) ∧
      ramp = fadd (q 2) (fmul (q 0) x (s.smAt ⟨i.toNat, h⟩).b)
        (fmul (q 1) (s.smAt ⟨i.toNat, h⟩).z (s.smAt ⟨i.toNat, h⟩).a) ∧
      zn = (if v = .snap ∧ flt (fabs (fsub (q 3) ramp (s.smAt ⟨i.toNat, h⟩).z))
        (fmul (q 4) (s.smAt ⟨i.toNat, h⟩).b 0x3A83126F) = true then x else ramp) ∧
      t.smAt ⟨i.toNat, h⟩ = { s.smAt ⟨i.toNat, h⟩ with
        z := zn, zPrev := (s.smAt ⟨i.toNat, h⟩).z } ∧
      Answered (.smProcess i v x) [zn] s t

/-- R237: with the reset pole a smoother passes its target through, for every finite `z`. -/
def Obligations.UnconfiguredSmoother : Prop :=
  ∀ (i : Inst) (v : SmVar) (x : F32) (s : State) (h : i.toNat < thisHardware.nSM),
    (s.smAt ⟨i.toNat, h⟩).a = 0 → (s.smAt ⟨i.toNat, h⟩).b = 0x3F800000 →
    isFinite (s.smAt ⟨i.toNat, h⟩).z = true → isNaN x = false →
      ∃ t y, exec (.smProcess i v x) s = .next t ∧ Answered (.smProcess i v x) [y] s t ∧
        feq y x = true ∧ (t.smAt ⟨i.toNat, h⟩).z = y

/-! ## APF and COMB -/

/-- R247, R250, R251, R255: APF.PROCESS reads, then writes the same value under either variant, and
answers the variant's output; the two flags. -/
def Obligations.ApfProcessEffect : Prop :=
  ∀ (i : Inst) (v : ApfVar) (p : Policy) (x d g : F32) (s : State) (h : i.toNat < thisHardware.nRB),
    s.Inv →
    ((s.rbAt ⟨i.toNat, h⟩).valid = true →
      ∃ (q o w : Nat → Word) (y : F32) (t : State), exec (.apfProcess i v p x d g) s = .next t ∧
        SameBut [.rb, .status, .rspOut, .draw] s t ∧
        y = (s.rbAt ⟨i.toNat, h⟩).readAt q (splitDelay (q 31) d).n (splitDelay (q 31) d).f p ∧
        WroteTo (s.rbAt ⟨i.toNat, h⟩) (t.rbAt ⟨i.toNat, h⟩)
          (fadd (w 1) x (fmul (w 0) y g)) ∧
        (∀ j, j ≠ ⟨i.toNat, h⟩ → t.rbAt j = s.rbAt j) ∧
        t.status = s.status ||| raised ((splitDelay (q 31) d).bad || decide
            ((s.rbAt ⟨i.toNat, h⟩).capacity.toNat ≤ (splitDelay (q 31) d).n.toNat)) .fDelay |||
          raised (!(fge g fZero && flt g 0x3F800000)) .fGain ∧
        Answered (.apfProcess i v p x d g)
          [match v with
            | .schroeder => fadd (o 1) y (fmul (o 0) (fneg g) x)
            | .gerzon => fadd (o 4) (fmul (o 2) y (fsub (o 1) 0x3F800000 (fmul (o 0) g g)))
                (fmul (o 3) (fneg g) x)] s t) ∧
    ((s.rbAt ⟨i.toNat, h⟩).valid = false →
      ∃ t, exec (.apfProcess i v p x d g) s = .next t ∧
        RefusedAs (commandWord (.apfProcess i v p x d g)) .eNobuf s t)

/-- R247, R258: COMB.PROCESS reads, writes the input plus the delayed sample times the feedback gain,
and answers the mix; the two flags. -/
def Obligations.CombProcessEffect : Prop :=
  ∀ (i : Inst) (p : Policy) (x d g m : F32) (s : State) (h : i.toNat < thisHardware.nRB), s.Inv →
    ((s.rbAt ⟨i.toNat, h⟩).valid = true →
      ∃ (q o w : Nat → Word) (y : F32) (t : State), exec (.combProcess i p x d g m) s = .next t ∧
        SameBut [.rb, .status, .rspOut, .draw] s t ∧
        y = (s.rbAt ⟨i.toNat, h⟩).readAt q (splitDelay (q 31) d).n (splitDelay (q 31) d).f p ∧
        WroteTo (s.rbAt ⟨i.toNat, h⟩) (t.rbAt ⟨i.toNat, h⟩)
          (fadd (w 1) x (fmul (w 0) y g)) ∧
        (∀ j, j ≠ ⟨i.toNat, h⟩ → t.rbAt j = s.rbAt j) ∧
        t.status = s.status ||| raised ((splitDelay (q 31) d).bad || decide
            ((s.rbAt ⟨i.toNat, h⟩).capacity.toNat ≤ (splitDelay (q 31) d).n.toNat)) .fDelay |||
          raised (!(fge g fZero && flt g 0x3F800000)) .fGain ∧
        Answered (.combProcess i p x d g m)
          [fadd (o 3) (fmul (o 0) y m) (fmul (o 2) x (fsub (o 1) 0x3F800000 m))] s t) ∧
    ((s.rbAt ⟨i.toNat, h⟩).valid = false →
      ∃ t, exec (.combProcess i p x d g m) s = .next t ∧
        RefusedAs (commandWord (.combProcess i p x d g m)) .eNobuf s t)

/-- R258, R287: with `mix = 1` the output equals the wet value for a finite dry value, with `mix = +0`
the dry value for a finite wet one. -/
def Obligations.MixEnds : Prop :=
  ∀ (q : Nat → Word) (wet dry : F32),
    (isFinite dry = true → isNaN wet = false → feq (mixOut q wet dry 0x3F800000) wet = true) ∧
    (isFinite wet = true → isNaN dry = false → feq (mixOut q wet dry 0x00000000) dry = true)

/-! ## FDN -/

/-- R270: FDN.BIND, accepted and refused; the buffers need not be valid and may be the same. -/
def Obligations.FdnBindEffect : Prop :=
  ∀ (i : Inst) (r0 r1 r2 r3 : Word) (s : State) (h : i.toNat < thisHardware.nFDN),
    (r0.toNat < thisHardware.nRB ∧ r1.toNat < thisHardware.nRB ∧ r2.toNat < thisHardware.nRB ∧
        r3.toNat < thisHardware.nRB →
      (s.mode = .prepare →
        ∃ t, exec (.fdnBind i r0 r1 r2 r3) s = .next t ∧ SameBut [.fdn, .rspOut] s t ∧
          (∀ j, j ≠ ⟨i.toNat, h⟩ → t.fdnAt j = s.fdnAt j) ∧
          t.fdnAt ⟨i.toNat, h⟩ = { s.fdnAt ⟨i.toNat, h⟩ with
            bound := true, line := (t.fdnAt ⟨i.toNat, h⟩).line } ∧
          (t.fdnAt ⟨i.toNat, h⟩).line.toList.map BitVec.toNat =
            [r0.toNat, r1.toNat, r2.toNat, r3.toNat] ∧
          Answered (.fdnBind i r0 r1 r2 r3) [] s t) ∧
      (s.mode = .run →
        ∃ t, exec (.fdnBind i r0 r1 r2 r3) s = .next t ∧
          RefusedAs (commandWord (.fdnBind i r0 r1 r2 r3)) .eMode s t)) ∧
    (¬ (r0.toNat < thisHardware.nRB ∧ r1.toNat < thisHardware.nRB ∧ r2.toNat < thisHardware.nRB ∧
        r3.toNat < thisHardware.nRB) →
      ∃ t, exec (.fdnBind i r0 r1 r2 r3) s = .next t ∧
        RefusedAs (commandWord (.fdnBind i r0 r1 r2 r3)) .eInst s t)

/-- R272 to R275: FDN.SETLEN, FDN.SETROT, FDN.SETDAMP and FDN.SETGAIN write the registers they name of
the network they name, in either mode, with no check and no flag. -/
def Obligations.FdnParameterEffects : Prop :=
  ∀ (i : Inst) (s : State) (h : i.toNat < thisHardware.nFDN),
    (∀ l0 l1 l2 l3, ∃ t, exec (.fdnSetlen i l0 l1 l2 l3) s = .next t ∧
      SameBut [.fdn, .rspOut] s t ∧ (∀ j, j ≠ ⟨i.toNat, h⟩ → t.fdnAt j = s.fdnAt j) ∧
      t.fdnAt ⟨i.toNat, h⟩ = { s.fdnAt ⟨i.toNat, h⟩ with len := #v[l0, l1, l2, l3] } ∧
      Answered (.fdnSetlen i l0 l1 l2 l3) [] s t) ∧
    (∀ c sn, ∃ t, exec (.fdnSetrot i c sn) s = .next t ∧
      SameBut [.fdn, .rspOut] s t ∧ (∀ j, j ≠ ⟨i.toNat, h⟩ → t.fdnAt j = s.fdnAt j) ∧
      t.fdnAt ⟨i.toNat, h⟩ = { s.fdnAt ⟨i.toNat, h⟩ with cosT := c, sinT := sn } ∧
      Answered (.fdnSetrot i c sn) [] s t) ∧
    (∀ a, ∃ q t, exec (.fdnSetdamp i a) s = .next t ∧
      SameBut [.fdn, .rspOut, .draw] s t ∧ (∀ j, j ≠ ⟨i.toNat, h⟩ → t.fdnAt j = s.fdnAt j) ∧
      t.fdnAt ⟨i.toNat, h⟩ = { s.fdnAt ⟨i.toNat, h⟩ with
        dampA := a, dampB := fsub q 0x3F800000 a } ∧
      Answered (.fdnSetdamp i a) [] s t) ∧
    (∀ g0 g1 g2 g3 w0 w1 w2 w3, ∃ t, exec (.fdnSetgain i g0 g1 g2 g3 w0 w1 w2 w3) s = .next t ∧
      SameBut [.fdn, .rspOut] s t ∧ (∀ j, j ≠ ⟨i.toNat, h⟩ → t.fdnAt j = s.fdnAt j) ∧
      t.fdnAt ⟨i.toNat, h⟩ = { s.fdnAt ⟨i.toNat, h⟩ with
        inGain := #v[g0, g1, g2, g3], outW := #v[w0, w1, w2, w3] } ∧
      Answered (.fdnSetgain i g0 g1 g2 g3 w0 w1 w2 w3) [] s t)

/-- R278 to R283, R286: FDN.STEP: the four taps read before any write, the two layers of rotations, the
damping filters, the decay and the input, the four writes in line order (also when lines share a
buffer), the wet sum and the mix; the two flags; and the two refusals. -/
def Obligations.FdnStepEffect : Prop :=
  ∀ (i : Inst) (x d m : F32) (s : State) (h : i.toNat < thisHardware.nFDN), s.Inv →
    (∀ L : Fin 4 → Fin thisHardware.nRB,
      (∀ k : Fin 4, (s.fdnAt ⟨i.toNat, h⟩).line[k].toNat = (L k).val) →
      (s.fdnAt ⟨i.toNat, h⟩).bound = true → (∀ k, (s.rbAt (L k)).valid = true) →
      ∃ (q : Nat → Nat → Word) (u v dz fb w : Fin 4 → F32) (wet : F32) (s1 s2 s3 s4 t : State),
        let f := s.fdnAt ⟨i.toNat, h⟩
        let c := f.cosT
        let r := f.sinT
        let tap : Fin 4 → F32 := fun k => (s.rbAt (L k)).sampleAt f.len[k]
        exec (.fdnStep i x d m) s = .next t ∧
        SameBut [.rb, .fdn, .status, .rspOut, .draw] s t ∧
        u 0 = fsub (q 0 2) (fmul (q 0 0) c (tap 0)) (fmul (q 0 1) r (tap 1)) ∧
        u 1 = fadd (q 0 5) (fmul (q 0 3) r (tap 0)) (fmul (q 0 4) c (tap 1)) ∧
        u 2 = fsub (q 1 2) (fmul (q 1 0) c (tap 2)) (fmul (q 1 1) r (tap 3)) ∧
        u 3 = fadd (q 1 5) (fmul (q 1 3) r (tap 2)) (fmul (q 1 4) c (tap 3)) ∧
        v 0 = fsub (q 2 2) (fmul (q 2 0) c (u 0)) (fmul (q 2 1) r (u 2)) ∧
        v 2 = fadd (q 2 5) (fmul (q 2 3) r (u 0)) (fmul (q 2 4) c (u 2)) ∧
        v 1 = fsub (q 3 2) (fmul (q 3 0) c (u 1)) (fmul (q 3 1) r (u 3)) ∧
        v 3 = fadd (q 3 5) (fmul (q 3 3) r (u 1)) (fmul (q 3 4) c (u 3)) ∧
        (∀ k : Fin 4, dz k =
          fadd (q 4 (3 * k + 2)) (fmul (q 4 (3 * k)) (v k) f.dampB)
            (fmul (q 4 (3 * k + 1)) f.dz[k] f.dampA)) ∧
        (∀ k : Fin 4, fb k = fmul (q 5 k) d (dz k)) ∧
        (∀ k : Fin 4, w k = fadd (q 6 (2 * k + 1)) (fmul (q 6 (2 * k)) f.inGain[k] x) (fb k)) ∧
        wet = fadd (q 7 6) (fadd (q 7 5) (fadd (q 7 4) (fmul (q 7 0) f.outW[0] (tap 0))
            (fmul (q 7 1) f.outW[1] (tap 1))) (fmul (q 7 2) f.outW[2] (tap 2)))
          (fmul (q 7 3) f.outW[3] (tap 3)) ∧
        WroteAt (L 0) (w 0) s s1 ∧ WroteAt (L 1) (w 1) s1 s2 ∧ WroteAt (L 2) (w 2) s2 s3 ∧
        WroteAt (L 3) (w 3) s3 s4 ∧ t.rb = s4.rb ∧
        (∀ j, j ≠ ⟨i.toNat, h⟩ → t.fdnAt j = s.fdnAt j) ∧
        t.fdnAt ⟨i.toNat, h⟩ = { f with
          dz := #v[dz 0, dz 1, dz 2, dz 3], fb := #v[fb 0, fb 1, fb 2, fb 3] } ∧
        t.status = s.status |||
          raised (decide (∃ k : Fin 4, (s.rbAt (L k)).capacity.toNat ≤ f.len[k].toNat)) .fDelay |||
          raised (!(fge d fZero && flt d 0x3F800000)) .fGain ∧
        Answered (.fdnStep i x d m)
          [fadd (q 8 3) (fmul (q 8 0) wet m) (fmul (q 8 2) x (fsub (q 8 1) 0x3F800000 m))] s t) ∧
    (networkReady s i.toNat = false →
      ∃ t, exec (.fdnStep i x d m) s = .next t ∧
        RefusedAs (commandWord (.fdnStep i x d m)) .eNobuf s t)

/-! ## Numbers -/

/-- R13, R14: on finite operands each of the four operations, and the conversion of an integer, rounds
the exact result once, to the nearest binary32, ties to even, with gradual underflow and overflow to
an infinity; an exact zero sum is `+0` unless both terms are negative. -/
def Obligations.ArithmeticRoundsOnce : Prop :=
  ∀ (q : Word) (x y : F32), isFinite x = true → isFinite y = true →
    (units x + units y ≠ 0 →
      IsRounding (fadd q x y) (decide (units x + units y < 0)) (units x + units y).natAbs 1) ∧
    (units x + units y = 0 →
      fadd q x y = if signBit x && signBit y then 0x80000000 else 0x00000000) ∧
    (units x - units y ≠ 0 →
      IsRounding (fsub q x y) (decide (units x - units y < 0)) (units x - units y).natAbs 1) ∧
    (units x - units y = 0 →
      fsub q x y = if signBit x && !signBit y then 0x80000000 else 0x00000000) ∧
    IsRounding (fmul q x y) (signBit x != signBit y) (ulps x * ulps y) (2 ^ 149) ∧
    (isZero y = false →
      IsRounding (fdiv q x y) (signBit x != signBit y) (ulps x * 2 ^ 149) (ulps y)) ∧
    ∀ n : Word, IsRounding (u2f n) false (n.toNat * 2 ^ 149) 1

/-- R13: the results on NaNs, infinities and zero divisors. A NaN result is the one the free word `q`
names, so any NaN (U1). -/
def Obligations.SpecialArithmetic : Prop :=
  (∀ w : Word, isNaN (nanOf w) = true ∧ (isNaN w = true → nanOf w = w)) ∧
  ∀ (q : Word) (x y : F32),
    (isNaN x = true ∨ isNaN y = true →
      fadd q x y = nanOf q ∧ fsub q x y = nanOf q ∧ fmul q x y = nanOf q ∧ fdiv q x y = nanOf q) ∧
    (isInf x = true → isInf y = true →
      fdiv q x y = nanOf q ∧ fmul q x y = fInf (signBit x != signBit y) ∧
      (signBit x = signBit y → fsub q x y = nanOf q ∧ fadd q x y = x) ∧
      (signBit x ≠ signBit y → fadd q x y = nanOf q ∧ fsub q x y = x)) ∧
    (isInf x = true → isFinite y = true →
      fadd q x y = x ∧ fadd q y x = x ∧ fsub q x y = x ∧ fsub q y x = fneg x ∧
      fdiv q x y = fInf (signBit x != signBit y) ∧
      isZero (fdiv q y x) = true ∧ signBit (fdiv q y x) = (signBit y != signBit x) ∧
      (isZero y = true → fmul q x y = nanOf q ∧ fmul q y x = nanOf q) ∧
      (isZero y = false → fmul q x y = fInf (signBit x != signBit y) ∧
        fmul q y x = fInf (signBit y != signBit x))) ∧
    (isZero x = true → isZero y = true → fdiv q x y = nanOf q) ∧
    (isFinite x = true → isZero x = false → isZero y = true →
      fdiv q x y = fInf (signBit x != signBit y))

/-- R14: comparisons compare values, false on a NaN, the two zeros equal, an infinity of either sign
beyond every finite value and equal to itself alone; `fneg` and `fabs` change the
sign bit alone; `ffloor` of a finite value is the largest integer not above it, exactly. -/
def Obligations.ExactPrimitives : Prop :=
  ∀ x y : F32,
    (isFinite x = true → isFinite y = true →
      flt x y = decide (units x < units y) ∧ fle x y = decide (units x ≤ units y) ∧
      fgt x y = decide (units y < units x) ∧ fge x y = decide (units y ≤ units x) ∧
      feq x y = decide (units x = units y)) ∧
    (isNaN x = true ∨ isNaN y = true →
      flt x y = false ∧ fle x y = false ∧ fgt x y = false ∧ fge x y = false ∧ feq x y = false) ∧
    (isInf x = true → isFinite y = true →
      flt x y = signBit x ∧ flt y x = !signBit x ∧ fle x y = signBit x ∧ fle y x = !signBit x ∧
      fgt x y = !signBit x ∧ fgt y x = signBit x ∧ fge x y = !signBit x ∧ fge y x = signBit x ∧
      feq x y = false ∧ feq y x = false) ∧
    (isInf x = true → isInf y = true →
      flt x y = (signBit x && !signBit y) ∧ fle x y = (signBit x || !signBit y) ∧
      fgt x y = (!signBit x && signBit y) ∧ fge x y = (!signBit x || signBit y) ∧
      feq x y = (signBit x == signBit y)) ∧
    (signBit (fneg x) = !signBit x ∧ magBits (fneg x) = magBits x) ∧
    (signBit (fabs x) = false ∧ magBits (fabs x) = magBits x) ∧
    (isFinite x = true → isFinite (ffloor x) = true ∧
      ∃ k : Int, units (ffloor x) = k * 2 ^ 149 ∧ k * 2 ^ 149 ≤ units x ∧
        units x < (k + 1) * 2 ^ 149) ∧
    (isFinite x = false ∨ isZero x = true → ffloor x = x)

/-- R16: the named properties of `TRANS`, whatever the five functions are otherwise. -/
def Obligations.TransProperties : Prop :=
  ∀ (q : Word) (x : F32),
    (fsin q 0x00000000 = 0x00000000 ∧ fsin q 0x80000000 = 0x80000000) ∧
    (isFinite x = true → fle (fabs (fsin q x)) 0x3F800000 = true ∧
      fle (fabs (fcos q x)) 0x3F800000 = true) ∧
    (fcos q 0x00000000 = 0x3F800000 ∧ fcos q 0x80000000 = 0x3F800000) ∧
    (fasin q 0x00000000 = 0x00000000 ∧ fasin q 0x80000000 = 0x80000000) ∧
    (fle (fabs x) 0x3F800000 = true → fle (fabs (fasin q x)) 0x3FC90FDB = true) ∧
    (fexp q 0x00000000 = 0x3F800000 ∧ fexp q 0x80000000 = 0x3F800000 ∧
      fexp q 0xFF800000 = 0x00000000) ∧
    (fle x fZero = true → fge (fexp q x) fZero = true ∧ fle (fexp q x) 0x3F800000 = true) ∧
    (fpow10 q 0x00000000 = 0x3F800000 ∧ fpow10 q 0x80000000 = 0x3F800000) ∧
    (isNaN x = true → isNaN (fsin q x) = true ∧ isNaN (fcos q x) = true ∧
      isNaN (fasin q x) = true ∧ isNaN (fexp q x) = true ∧ isNaN (fpow10 q x) = true) ∧
    (isInf x = true → isNaN (fsin q x) = true ∧ isNaN (fcos q x) = true) ∧
    (fgt (fabs x) 0x3F800000 = true → isNaN (fasin q x) = true)

end
end

