-- ==== Sys2Proof/Laws/Memory.lean ====
section
/-! SUPPORT. The sample memory: every operation keeps its canonical form, a write is seen by a read
of its slot and by no other (20_memory.md R71, R72). -/

namespace Sys2Proof
namespace Machine

variable {P : Params}

/-- Every listed slot lies above `a`. -/
theorem Memory.wf_cons {a : Nat} {v : Word} {m : Memory} :
    Memory.wf ((a, v) :: m) = true ↔
      v ≠ Memory.unlisted ∧ (∀ c ∈ m, a < c.1) ∧ Memory.wf m = true := by
  simp [Memory.wf, and_assoc]

theorem Memory.wf_zeroFilled : Memory.wf Memory.zeroFilled = true := rfl

/-- Every sample memory has the canonical form right after reset. -/
theorem Memory.wf_reset (i : Fin P.nRB) : Memory.wf ((State.resetFor P).rbAt i).storage = true := by
  have h : (State.resetFor P).rbAt i = RbInst.reset := by
    unfold State.rbAt State.resetFor
    exact Vector.getElem_replicate _
  rw [h]
  rfl

@[simp] theorem Memory.read_zeroFilled (k : Nat) : Memory.read Memory.zeroFilled k = fZero := rfl

/-- A slot below every listed one reads as unlisted. -/
theorem Memory.read_of_lt_all {m : Memory} {k : Nat} (h : ∀ c ∈ m, k < c.1) :
    Memory.read m k = Memory.unlisted := by
  induction m with
  | nil => rfl
  | cons c m ih =>
    have hc := h c (by simp)
    rw [Memory.read, if_neg (by omega)]
    exact ih fun d hd => h d (by simp [hd])

/-- A write lists no slot but the one written and those listed before. -/
theorem Memory.mem_write {m : Memory} {k : Nat} {v : Word} {c : SampleCell}
    (h : c ∈ Memory.write m k v) : c = (k, v) ∨ c ∈ m := by
  induction m with
  | nil =>
    rw [Memory.write] at h
    split at h <;> simp_all
  | cons d m ih =>
    obtain ⟨a, u⟩ := d
    rw [Memory.write] at h
    split at h
    · split at h <;> simp_all
    · split at h
      · rename_i hk
        subst hk
        split at h
        · exact Or.inr (List.mem_cons_of_mem _ h)
        · rcases List.mem_cons.1 h with h | h
          · exact Or.inl h
          · exact Or.inr (List.mem_cons_of_mem _ h)
      · simp only [List.mem_cons] at h ⊢
        rcases h with h | h
        · exact Or.inr (Or.inl h)
        · rcases ih h with h | h
          · exact Or.inl h
          · exact Or.inr (Or.inr h)

/-- A write keeps the canonical form. -/
theorem Memory.wf_write {m : Memory} (k : Nat) (v : Word) (h : Memory.wf m = true) :
    Memory.wf (Memory.write m k v) = true := by
  induction m with
  | nil =>
    rw [Memory.write]
    split
    · rfl
    · rename_i hv
      exact Memory.wf_cons.2 ⟨hv, by simp, rfl⟩
  | cons d m ih =>
    obtain ⟨a, u⟩ := d
    obtain ⟨hu, hlt, hm⟩ := Memory.wf_cons.1 h
    rw [Memory.write]
    split
    · rename_i hk
      split
      · exact h
      · rename_i hv
        refine Memory.wf_cons.2 ⟨hv, ?_, h⟩
        intro c hc
        rcases List.mem_cons.1 hc with rfl | hc
        · exact hk
        · exact lt_trans hk (hlt c hc)
    · split
      · split
        · exact hm
        · rename_i hk hv
          exact Memory.wf_cons.2 ⟨hv, by rw [hk]; exact hlt, hm⟩
      · rename_i hk hne
        refine Memory.wf_cons.2 ⟨hu, ?_, ih hm⟩
        intro c hc
        rcases Memory.mem_write hc with rfl | hc
        · simp only; omega
        · exact hlt c hc

/-- What a slot reads as after a write. -/
theorem Memory.read_write {m : Memory} (k j : Nat) (v : Word) (h : Memory.wf m = true) :
    Memory.read (Memory.write m k v) j = if j = k then v else Memory.read m j := by
  induction m with
  | nil =>
    rw [Memory.write]
    by_cases hj : j = k
    · subst hj
      split <;> simp_all [Memory.read]
    · split <;> simp_all [Memory.read, Ne.symm hj]
  | cons d m ih =>
    obtain ⟨a, u⟩ := d
    obtain ⟨hu, hlt, hm⟩ := Memory.wf_cons.1 h
    rw [Memory.write]
    by_cases hj : j = k
    · subst hj
      split
      · rename_i hk
        have hr := Memory.read_of_lt_all (m := (a, u) :: m) (k := j) (by
          intro c hc
          rcases List.mem_cons.1 hc with rfl | hc
          · exact hk
          · exact lt_trans hk (hlt c hc))
        split <;> simp_all [Memory.read]
      · split
        · rename_i hk
          have hr := Memory.read_of_lt_all (m := m) (k := j) (by rw [hk]; exact hlt)
          split <;> simp_all [Memory.read]
        · rename_i hk hne
          rw [Memory.read, if_neg (Ne.symm hne), ih hm, if_pos rfl, if_pos rfl]
    · have hkj : k ≠ j := Ne.symm hj
      split
      · split <;> simp_all [Memory.read]
      · split
        · rename_i hk
          split <;> simp_all [Memory.read]
        · rename_i hk hne
          by_cases ha : a = j
          · subst ha; simp [Memory.read]
          · simp only [Memory.read, if_neg ha, ih hm, if_neg hj]

end Machine
end Sys2Proof
end

