-- ==== Sys2Proof/Laws/Ring.lean ====
section
/-! SUPPORT. The memory primitives and the ring-buffer primitives: what each answers, once, and that
each keeps the invariant of a ring buffer (10_state.md R36). -/

namespace Sys2Proof
namespace Machine

variable {P : Params}

theorem RbInst.reset_inv : RbInst.Inv RbInst.reset P :=
  ⟨by simp [RbInst.reset], fun _ => rfl, rfl, by simp [RbInst.reset]⟩

/-- Masking with `wrapMask` stays below `capacity`. -/
theorem RbInst.Inv.mask_lt {r : RbInst} (h : r.Inv P) (hv : r.valid = true) (x : Word) :
    (x &&& r.wrapMask).toNat < r.capacity.toNat := by
  obtain ⟨k, -, hc, hm, -⟩ := h.1 hv
  have hle : (x &&& r.wrapMask).toNat ≤ r.wrapMask.toNat := by
    rw [BitVec.toNat_and]; exact Nat.and_le_right
  have := Nat.two_pow_pos k
  omega

/-- Masking with `wrapMask` is the remainder by `capacity`. -/
theorem RbInst.Inv.mask_mod {r : RbInst} (h : r.Inv P) (hv : r.valid = true) (x : Word) :
    (x &&& r.wrapMask).toNat = x.toNat % r.capacity.toNat := by
  obtain ⟨k, -, hc, hm, -⟩ := h.1 hv
  rw [BitVec.toNat_and, hm, hc, Nat.and_two_pow_sub_one_eq_mod]

theorem RbInst.Inv.writeIndex_lt {r : RbInst} (h : r.Inv P) (hv : r.valid = true) :
    r.writeIndex.toNat < r.capacity.toNat := by
  obtain ⟨k, -, hc, -, hw⟩ := h.1 hv
  omega

/-- A read of an existing slot. -/
theorem memRead_ok {r : RbInst} {k : Nat} (hv : r.valid = true) (hk : k < r.capacity.toNat) :
    memRead r k = .ok (Memory.read r.storage k) := by
  simp [memRead, hv, hk]

/-- A read answers the slot's word or the one fault. -/
theorem memRead_cases (r : RbInst) (k : Nat) :
    memRead r k = .ok (Memory.read r.storage k) ∨ memRead r k = .error .noSuchSlot := by
  unfold memRead; split <;> simp

/-- A write to an existing slot. -/
theorem memWrite_ok {r : RbInst} {k : Nat} (v : Word) (hv : r.valid = true)
    (hk : k < r.capacity.toNat) :
    memWrite r k v = .ok { r with storage := Memory.write r.storage k v } := by
  simp [memWrite, hv, hk]

/-- A write answers the buffer with one slot replaced, or the one fault. -/
theorem memWrite_cases (r : RbInst) (k : Nat) (v : Word) :
    memWrite r k v = .ok { r with storage := Memory.write r.storage k v } ∨
      memWrite r k v = .error .noSuchSlot := by
  unfold memWrite; split <;> simp

/-- `rb_read_int` on a valid buffer (R134). -/
theorem ringReadInt_ok {r : RbInst} (h : r.Inv P) (hv : r.valid = true) (d : Word) :
    ringReadInt r d = .ok (Memory.read r.storage (slotOf r d)) :=
  memRead_ok hv (h.mask_lt hv _)

/-- The buffer after `rb_write` (R135). -/
def RbInst.written (r : RbInst) (v : F32) : RbInst :=
  { r with
    storage := Memory.write r.storage r.writeIndex.toNat v
    writeIndex := (r.writeIndex + 1) &&& r.wrapMask }

/-- `rb_write` answers the written buffer or the one fault. -/
theorem ringWrite_cases (r : RbInst) (v : F32) :
    ringWrite r v = .ok (r.written v) ∨ ringWrite r v = .error .noSuchSlot := by
  unfold ringWrite
  rcases memWrite_cases r r.writeIndex.toNat v with h | h <;> rw [h]
  · exact Or.inl rfl
  · exact Or.inr rfl

/-- `rb_write` on a valid buffer. -/
theorem ringWrite_ok {r : RbInst} (h : r.Inv P) (hv : r.valid = true) (v : F32) :
    ringWrite r v = .ok (r.written v) := by
  unfold ringWrite
  rw [memWrite_ok v hv (h.writeIndex_lt hv)]
  rfl

/-- A buffer that was written was valid and had its index below its capacity. -/
theorem ringWrite_valid {r r' : RbInst} {v : F32} (h : ringWrite r v = .ok r') :
    r.valid = true ∧ r.writeIndex.toNat < r.capacity.toNat ∧ r' = r.written v := by
  unfold ringWrite memWrite at h
  split at h
  · rename_i hc
    simp only [Bool.and_eq_true, decide_eq_true_eq] at hc
    refine ⟨hc.1, hc.2, ?_⟩
    injection h with h
    exact h.symm
  · exact absurd h (by simp [bind, Except.bind])

/-- A write keeps the invariant of a valid buffer. -/
theorem RbInst.Inv.written {r : RbInst} (h : r.Inv P) (hv : r.valid = true) (v : F32) :
    (r.written v).Inv P := by
  have hw := h.writeIndex_lt hv
  have hm := h.mask_lt hv (r.writeIndex + 1)
  obtain ⟨k, hk, hc, hmask, -⟩ := h.1 hv
  refine ⟨fun _ => ⟨k, hk, hc, hmask, ?_⟩, fun hf => ?_, Memory.wf_write _ _ h.2.2.1, ?_⟩
  · rw [hc] at hm; exact hm
  · have : r.valid = false := hf
    rw [hv] at this; exact absurd this (by decide)
  · intro c hcm
    rcases Memory.mem_write hcm with rfl | hcm
    · exact hw
    · exact h.2.2.2 c hcm

@[simp] theorem RbInst.written_valid (r : RbInst) (v : F32) : (r.written v).valid = r.valid := rfl
@[simp] theorem RbInst.written_capacity (r : RbInst) (v : F32) :
    (r.written v).capacity = r.capacity := rfl
@[simp] theorem RbInst.written_wrapMask (r : RbInst) (v : F32) :
    (r.written v).wrapMask = r.wrapMask := rfl

/-- `rb_write` on an instance of the state. -/
theorem ringWriteAt_ok {s : State P} {i : Fin P.nRB} (h : (s.rbAt i).Inv P)
    (hv : (s.rbAt i).valid = true) (v : F32) :
    ringWriteAt s i v = .ok (s.setRb i ((s.rbAt i).written v)) := by
  unfold ringWriteAt
  rw [ringWrite_ok h hv]
  rfl

/-- `rb_write` on an instance of the state answers the state with that instance written, or the one
fault. -/
theorem ringWriteAt_cases (s : State P) (i : Fin P.nRB) (v : F32) :
    ringWriteAt s i v = .ok (s.setRb i ((s.rbAt i).written v)) ∨
      ringWriteAt s i v = .error .noSuchSlot := by
  unfold ringWriteAt
  rcases ringWrite_cases (s.rbAt i) v with h | h <;> rw [h]
  · exact Or.inl rfl
  · exact Or.inr rfl

end Machine
end Sys2Proof
end

