-- ==== Sys2Proof/Laws/State.lean ====
section
/-! SUPPORT. One lemma per field per update of the state, each true by unfolding the update once. -/

namespace Sys2Proof
namespace Machine

variable {P : Params}

variable (s : State P)

/-! ### `setRb` -/

@[simp] theorem State.setRb_rb (i : Fin P.nRB) (x : RbInst) : (s.setRb i x).rb = s.rb.set i.val x := rfl
@[simp] theorem State.setRb_fd (i : Fin P.nRB) (x : RbInst) : (s.setRb i x).fd = s.fd := rfl
@[simp] theorem State.setRb_osc (i : Fin P.nRB) (x : RbInst) : (s.setRb i x).osc = s.osc := rfl
@[simp] theorem State.setRb_sm (i : Fin P.nRB) (x : RbInst) : (s.setRb i x).sm = s.sm := rfl
@[simp] theorem State.setRb_fdn (i : Fin P.nRB) (x : RbInst) : (s.setRb i x).fdn = s.fdn := rfl
@[simp] theorem State.setRb_mode (i : Fin P.nRB) (x : RbInst) : (s.setRb i x).mode = s.mode := rfl
@[simp] theorem State.setRb_status (i : Fin P.nRB) (x : RbInst) : (s.setRb i x).status = s.status := rfl
@[simp] theorem State.setRb_errInfo (i : Fin P.nRB) (x : RbInst) : (s.setRb i x).errInfo = s.errInfo := rfl
@[simp] theorem State.setRb_errCode (i : Fin P.nRB) (x : RbInst) : (s.setRb i x).errCode = s.errCode := rfl
@[simp] theorem State.setRb_pkt (i : Fin P.nRB) (x : RbInst) : (s.setRb i x).pkt = s.pkt := rfl
@[simp] theorem State.setRb_cmdIn (i : Fin P.nRB) (x : RbInst) : (s.setRb i x).cmdIn = s.cmdIn := rfl
@[simp] theorem State.setRb_rspOut (i : Fin P.nRB) (x : RbInst) : (s.setRb i x).rspOut = s.rspOut := rfl
@[simp] theorem State.setRb_rstN (i : Fin P.nRB) (x : RbInst) : (s.setRb i x).rstN = s.rstN := rfl
@[simp] theorem State.setRb_nanEpoch (i : Fin P.nRB) (x : RbInst) : (s.setRb i x).nanEpoch = s.nanEpoch := rfl
@[simp] theorem State.setRb_fdAt (i : Fin P.nRB) (x : RbInst) (j : Fin P.nFD) : (s.setRb i x).fdAt j = s.fdAt j := rfl
@[simp] theorem State.setRb_oscAt (i : Fin P.nRB) (x : RbInst) (j : Fin P.nOSC) : (s.setRb i x).oscAt j = s.oscAt j := rfl
@[simp] theorem State.setRb_smAt (i : Fin P.nRB) (x : RbInst) (j : Fin P.nSM) : (s.setRb i x).smAt j = s.smAt j := rfl
@[simp] theorem State.setRb_fdnAt (i : Fin P.nRB) (x : RbInst) (j : Fin P.nFDN) : (s.setRb i x).fdnAt j = s.fdnAt j := rfl

/-! ### `setFd` -/

@[simp] theorem State.setFd_rb (i : Fin P.nFD) (x : FdInst) : (s.setFd i x).rb = s.rb := rfl
@[simp] theorem State.setFd_fd (i : Fin P.nFD) (x : FdInst) : (s.setFd i x).fd = s.fd.set i.val x := rfl
@[simp] theorem State.setFd_osc (i : Fin P.nFD) (x : FdInst) : (s.setFd i x).osc = s.osc := rfl
@[simp] theorem State.setFd_sm (i : Fin P.nFD) (x : FdInst) : (s.setFd i x).sm = s.sm := rfl
@[simp] theorem State.setFd_fdn (i : Fin P.nFD) (x : FdInst) : (s.setFd i x).fdn = s.fdn := rfl
@[simp] theorem State.setFd_mode (i : Fin P.nFD) (x : FdInst) : (s.setFd i x).mode = s.mode := rfl
@[simp] theorem State.setFd_status (i : Fin P.nFD) (x : FdInst) : (s.setFd i x).status = s.status := rfl
@[simp] theorem State.setFd_errInfo (i : Fin P.nFD) (x : FdInst) : (s.setFd i x).errInfo = s.errInfo := rfl
@[simp] theorem State.setFd_errCode (i : Fin P.nFD) (x : FdInst) : (s.setFd i x).errCode = s.errCode := rfl
@[simp] theorem State.setFd_pkt (i : Fin P.nFD) (x : FdInst) : (s.setFd i x).pkt = s.pkt := rfl
@[simp] theorem State.setFd_cmdIn (i : Fin P.nFD) (x : FdInst) : (s.setFd i x).cmdIn = s.cmdIn := rfl
@[simp] theorem State.setFd_rspOut (i : Fin P.nFD) (x : FdInst) : (s.setFd i x).rspOut = s.rspOut := rfl
@[simp] theorem State.setFd_rstN (i : Fin P.nFD) (x : FdInst) : (s.setFd i x).rstN = s.rstN := rfl
@[simp] theorem State.setFd_nanEpoch (i : Fin P.nFD) (x : FdInst) : (s.setFd i x).nanEpoch = s.nanEpoch := rfl
@[simp] theorem State.setFd_rbAt (i : Fin P.nFD) (x : FdInst) (j : Fin P.nRB) : (s.setFd i x).rbAt j = s.rbAt j := rfl
@[simp] theorem State.setFd_oscAt (i : Fin P.nFD) (x : FdInst) (j : Fin P.nOSC) : (s.setFd i x).oscAt j = s.oscAt j := rfl
@[simp] theorem State.setFd_smAt (i : Fin P.nFD) (x : FdInst) (j : Fin P.nSM) : (s.setFd i x).smAt j = s.smAt j := rfl
@[simp] theorem State.setFd_fdnAt (i : Fin P.nFD) (x : FdInst) (j : Fin P.nFDN) : (s.setFd i x).fdnAt j = s.fdnAt j := rfl

/-! ### `setOsc` -/

@[simp] theorem State.setOsc_rb (i : Fin P.nOSC) (x : OscInst) : (s.setOsc i x).rb = s.rb := rfl
@[simp] theorem State.setOsc_fd (i : Fin P.nOSC) (x : OscInst) : (s.setOsc i x).fd = s.fd := rfl
@[simp] theorem State.setOsc_osc (i : Fin P.nOSC) (x : OscInst) : (s.setOsc i x).osc = s.osc.set i.val x := rfl
@[simp] theorem State.setOsc_sm (i : Fin P.nOSC) (x : OscInst) : (s.setOsc i x).sm = s.sm := rfl
@[simp] theorem State.setOsc_fdn (i : Fin P.nOSC) (x : OscInst) : (s.setOsc i x).fdn = s.fdn := rfl
@[simp] theorem State.setOsc_mode (i : Fin P.nOSC) (x : OscInst) : (s.setOsc i x).mode = s.mode := rfl
@[simp] theorem State.setOsc_status (i : Fin P.nOSC) (x : OscInst) : (s.setOsc i x).status = s.status := rfl
@[simp] theorem State.setOsc_errInfo (i : Fin P.nOSC) (x : OscInst) : (s.setOsc i x).errInfo = s.errInfo := rfl
@[simp] theorem State.setOsc_errCode (i : Fin P.nOSC) (x : OscInst) : (s.setOsc i x).errCode = s.errCode := rfl
@[simp] theorem State.setOsc_pkt (i : Fin P.nOSC) (x : OscInst) : (s.setOsc i x).pkt = s.pkt := rfl
@[simp] theorem State.setOsc_cmdIn (i : Fin P.nOSC) (x : OscInst) : (s.setOsc i x).cmdIn = s.cmdIn := rfl
@[simp] theorem State.setOsc_rspOut (i : Fin P.nOSC) (x : OscInst) : (s.setOsc i x).rspOut = s.rspOut := rfl
@[simp] theorem State.setOsc_rstN (i : Fin P.nOSC) (x : OscInst) : (s.setOsc i x).rstN = s.rstN := rfl
@[simp] theorem State.setOsc_nanEpoch (i : Fin P.nOSC) (x : OscInst) : (s.setOsc i x).nanEpoch = s.nanEpoch := rfl
@[simp] theorem State.setOsc_rbAt (i : Fin P.nOSC) (x : OscInst) (j : Fin P.nRB) : (s.setOsc i x).rbAt j = s.rbAt j := rfl
@[simp] theorem State.setOsc_fdAt (i : Fin P.nOSC) (x : OscInst) (j : Fin P.nFD) : (s.setOsc i x).fdAt j = s.fdAt j := rfl
@[simp] theorem State.setOsc_smAt (i : Fin P.nOSC) (x : OscInst) (j : Fin P.nSM) : (s.setOsc i x).smAt j = s.smAt j := rfl
@[simp] theorem State.setOsc_fdnAt (i : Fin P.nOSC) (x : OscInst) (j : Fin P.nFDN) : (s.setOsc i x).fdnAt j = s.fdnAt j := rfl

/-! ### `setSm` -/

@[simp] theorem State.setSm_rb (i : Fin P.nSM) (x : SmInst) : (s.setSm i x).rb = s.rb := rfl
@[simp] theorem State.setSm_fd (i : Fin P.nSM) (x : SmInst) : (s.setSm i x).fd = s.fd := rfl
@[simp] theorem State.setSm_osc (i : Fin P.nSM) (x : SmInst) : (s.setSm i x).osc = s.osc := rfl
@[simp] theorem State.setSm_sm (i : Fin P.nSM) (x : SmInst) : (s.setSm i x).sm = s.sm.set i.val x := rfl
@[simp] theorem State.setSm_fdn (i : Fin P.nSM) (x : SmInst) : (s.setSm i x).fdn = s.fdn := rfl
@[simp] theorem State.setSm_mode (i : Fin P.nSM) (x : SmInst) : (s.setSm i x).mode = s.mode := rfl
@[simp] theorem State.setSm_status (i : Fin P.nSM) (x : SmInst) : (s.setSm i x).status = s.status := rfl
@[simp] theorem State.setSm_errInfo (i : Fin P.nSM) (x : SmInst) : (s.setSm i x).errInfo = s.errInfo := rfl
@[simp] theorem State.setSm_errCode (i : Fin P.nSM) (x : SmInst) : (s.setSm i x).errCode = s.errCode := rfl
@[simp] theorem State.setSm_pkt (i : Fin P.nSM) (x : SmInst) : (s.setSm i x).pkt = s.pkt := rfl
@[simp] theorem State.setSm_cmdIn (i : Fin P.nSM) (x : SmInst) : (s.setSm i x).cmdIn = s.cmdIn := rfl
@[simp] theorem State.setSm_rspOut (i : Fin P.nSM) (x : SmInst) : (s.setSm i x).rspOut = s.rspOut := rfl
@[simp] theorem State.setSm_rstN (i : Fin P.nSM) (x : SmInst) : (s.setSm i x).rstN = s.rstN := rfl
@[simp] theorem State.setSm_nanEpoch (i : Fin P.nSM) (x : SmInst) : (s.setSm i x).nanEpoch = s.nanEpoch := rfl
@[simp] theorem State.setSm_rbAt (i : Fin P.nSM) (x : SmInst) (j : Fin P.nRB) : (s.setSm i x).rbAt j = s.rbAt j := rfl
@[simp] theorem State.setSm_fdAt (i : Fin P.nSM) (x : SmInst) (j : Fin P.nFD) : (s.setSm i x).fdAt j = s.fdAt j := rfl
@[simp] theorem State.setSm_oscAt (i : Fin P.nSM) (x : SmInst) (j : Fin P.nOSC) : (s.setSm i x).oscAt j = s.oscAt j := rfl
@[simp] theorem State.setSm_fdnAt (i : Fin P.nSM) (x : SmInst) (j : Fin P.nFDN) : (s.setSm i x).fdnAt j = s.fdnAt j := rfl

/-! ### `setFdn` -/

@[simp] theorem State.setFdn_rb (i : Fin P.nFDN) (x : FdnInst) : (s.setFdn i x).rb = s.rb := rfl
@[simp] theorem State.setFdn_fd (i : Fin P.nFDN) (x : FdnInst) : (s.setFdn i x).fd = s.fd := rfl
@[simp] theorem State.setFdn_osc (i : Fin P.nFDN) (x : FdnInst) : (s.setFdn i x).osc = s.osc := rfl
@[simp] theorem State.setFdn_sm (i : Fin P.nFDN) (x : FdnInst) : (s.setFdn i x).sm = s.sm := rfl
@[simp] theorem State.setFdn_fdn (i : Fin P.nFDN) (x : FdnInst) : (s.setFdn i x).fdn = s.fdn.set i.val x := rfl
@[simp] theorem State.setFdn_mode (i : Fin P.nFDN) (x : FdnInst) : (s.setFdn i x).mode = s.mode := rfl
@[simp] theorem State.setFdn_status (i : Fin P.nFDN) (x : FdnInst) : (s.setFdn i x).status = s.status := rfl
@[simp] theorem State.setFdn_errInfo (i : Fin P.nFDN) (x : FdnInst) : (s.setFdn i x).errInfo = s.errInfo := rfl
@[simp] theorem State.setFdn_errCode (i : Fin P.nFDN) (x : FdnInst) : (s.setFdn i x).errCode = s.errCode := rfl
@[simp] theorem State.setFdn_pkt (i : Fin P.nFDN) (x : FdnInst) : (s.setFdn i x).pkt = s.pkt := rfl
@[simp] theorem State.setFdn_cmdIn (i : Fin P.nFDN) (x : FdnInst) : (s.setFdn i x).cmdIn = s.cmdIn := rfl
@[simp] theorem State.setFdn_rspOut (i : Fin P.nFDN) (x : FdnInst) : (s.setFdn i x).rspOut = s.rspOut := rfl
@[simp] theorem State.setFdn_rstN (i : Fin P.nFDN) (x : FdnInst) : (s.setFdn i x).rstN = s.rstN := rfl
@[simp] theorem State.setFdn_nanEpoch (i : Fin P.nFDN) (x : FdnInst) : (s.setFdn i x).nanEpoch = s.nanEpoch := rfl
@[simp] theorem State.setFdn_rbAt (i : Fin P.nFDN) (x : FdnInst) (j : Fin P.nRB) : (s.setFdn i x).rbAt j = s.rbAt j := rfl
@[simp] theorem State.setFdn_fdAt (i : Fin P.nFDN) (x : FdnInst) (j : Fin P.nFD) : (s.setFdn i x).fdAt j = s.fdAt j := rfl
@[simp] theorem State.setFdn_oscAt (i : Fin P.nFDN) (x : FdnInst) (j : Fin P.nOSC) : (s.setFdn i x).oscAt j = s.oscAt j := rfl
@[simp] theorem State.setFdn_smAt (i : Fin P.nFDN) (x : FdnInst) (j : Fin P.nSM) : (s.setFdn i x).smAt j = s.smAt j := rfl

/-! ### `setMode` -/

@[simp] theorem State.setMode_rb (x : Mode) : (s.setMode x).rb = s.rb := rfl
@[simp] theorem State.setMode_fd (x : Mode) : (s.setMode x).fd = s.fd := rfl
@[simp] theorem State.setMode_osc (x : Mode) : (s.setMode x).osc = s.osc := rfl
@[simp] theorem State.setMode_sm (x : Mode) : (s.setMode x).sm = s.sm := rfl
@[simp] theorem State.setMode_fdn (x : Mode) : (s.setMode x).fdn = s.fdn := rfl
@[simp] theorem State.setMode_mode (x : Mode) : (s.setMode x).mode = x := rfl
@[simp] theorem State.setMode_status (x : Mode) : (s.setMode x).status = s.status := rfl
@[simp] theorem State.setMode_errInfo (x : Mode) : (s.setMode x).errInfo = s.errInfo := rfl
@[simp] theorem State.setMode_errCode (x : Mode) : (s.setMode x).errCode = s.errCode := rfl
@[simp] theorem State.setMode_pkt (x : Mode) : (s.setMode x).pkt = s.pkt := rfl
@[simp] theorem State.setMode_cmdIn (x : Mode) : (s.setMode x).cmdIn = s.cmdIn := rfl
@[simp] theorem State.setMode_rspOut (x : Mode) : (s.setMode x).rspOut = s.rspOut := rfl
@[simp] theorem State.setMode_rstN (x : Mode) : (s.setMode x).rstN = s.rstN := rfl
@[simp] theorem State.setMode_nanEpoch (x : Mode) : (s.setMode x).nanEpoch = s.nanEpoch := rfl
@[simp] theorem State.setMode_rbAt (x : Mode) (j : Fin P.nRB) : (s.setMode x).rbAt j = s.rbAt j := rfl
@[simp] theorem State.setMode_fdAt (x : Mode) (j : Fin P.nFD) : (s.setMode x).fdAt j = s.fdAt j := rfl
@[simp] theorem State.setMode_oscAt (x : Mode) (j : Fin P.nOSC) : (s.setMode x).oscAt j = s.oscAt j := rfl
@[simp] theorem State.setMode_smAt (x : Mode) (j : Fin P.nSM) : (s.setMode x).smAt j = s.smAt j := rfl
@[simp] theorem State.setMode_fdnAt (x : Mode) (j : Fin P.nFDN) : (s.setMode x).fdnAt j = s.fdnAt j := rfl

/-! ### `setStatus` -/

@[simp] theorem State.setStatus_rb (x : BitVec 5) : (s.setStatus x).rb = s.rb := rfl
@[simp] theorem State.setStatus_fd (x : BitVec 5) : (s.setStatus x).fd = s.fd := rfl
@[simp] theorem State.setStatus_osc (x : BitVec 5) : (s.setStatus x).osc = s.osc := rfl
@[simp] theorem State.setStatus_sm (x : BitVec 5) : (s.setStatus x).sm = s.sm := rfl
@[simp] theorem State.setStatus_fdn (x : BitVec 5) : (s.setStatus x).fdn = s.fdn := rfl
@[simp] theorem State.setStatus_mode (x : BitVec 5) : (s.setStatus x).mode = s.mode := rfl
@[simp] theorem State.setStatus_status (x : BitVec 5) : (s.setStatus x).status = x := rfl
@[simp] theorem State.setStatus_errInfo (x : BitVec 5) : (s.setStatus x).errInfo = s.errInfo := rfl
@[simp] theorem State.setStatus_errCode (x : BitVec 5) : (s.setStatus x).errCode = s.errCode := rfl
@[simp] theorem State.setStatus_pkt (x : BitVec 5) : (s.setStatus x).pkt = s.pkt := rfl
@[simp] theorem State.setStatus_cmdIn (x : BitVec 5) : (s.setStatus x).cmdIn = s.cmdIn := rfl
@[simp] theorem State.setStatus_rspOut (x : BitVec 5) : (s.setStatus x).rspOut = s.rspOut := rfl
@[simp] theorem State.setStatus_rstN (x : BitVec 5) : (s.setStatus x).rstN = s.rstN := rfl
@[simp] theorem State.setStatus_nanEpoch (x : BitVec 5) : (s.setStatus x).nanEpoch = s.nanEpoch := rfl
@[simp] theorem State.setStatus_rbAt (x : BitVec 5) (j : Fin P.nRB) : (s.setStatus x).rbAt j = s.rbAt j := rfl
@[simp] theorem State.setStatus_fdAt (x : BitVec 5) (j : Fin P.nFD) : (s.setStatus x).fdAt j = s.fdAt j := rfl
@[simp] theorem State.setStatus_oscAt (x : BitVec 5) (j : Fin P.nOSC) : (s.setStatus x).oscAt j = s.oscAt j := rfl
@[simp] theorem State.setStatus_smAt (x : BitVec 5) (j : Fin P.nSM) : (s.setStatus x).smAt j = s.smAt j := rfl
@[simp] theorem State.setStatus_fdnAt (x : BitVec 5) (j : Fin P.nFDN) : (s.setStatus x).fdnAt j = s.fdnAt j := rfl

/-! ### `setErr` -/

@[simp] theorem State.setErr_rb (x : Word) (y : BitVec 8) : (s.setErr x y).rb = s.rb := rfl
@[simp] theorem State.setErr_fd (x : Word) (y : BitVec 8) : (s.setErr x y).fd = s.fd := rfl
@[simp] theorem State.setErr_osc (x : Word) (y : BitVec 8) : (s.setErr x y).osc = s.osc := rfl
@[simp] theorem State.setErr_sm (x : Word) (y : BitVec 8) : (s.setErr x y).sm = s.sm := rfl
@[simp] theorem State.setErr_fdn (x : Word) (y : BitVec 8) : (s.setErr x y).fdn = s.fdn := rfl
@[simp] theorem State.setErr_mode (x : Word) (y : BitVec 8) : (s.setErr x y).mode = s.mode := rfl
@[simp] theorem State.setErr_status (x : Word) (y : BitVec 8) : (s.setErr x y).status = s.status := rfl
@[simp] theorem State.setErr_errInfo (x : Word) (y : BitVec 8) : (s.setErr x y).errInfo = x := rfl
@[simp] theorem State.setErr_errCode (x : Word) (y : BitVec 8) : (s.setErr x y).errCode = y := rfl
@[simp] theorem State.setErr_pkt (x : Word) (y : BitVec 8) : (s.setErr x y).pkt = s.pkt := rfl
@[simp] theorem State.setErr_cmdIn (x : Word) (y : BitVec 8) : (s.setErr x y).cmdIn = s.cmdIn := rfl
@[simp] theorem State.setErr_rspOut (x : Word) (y : BitVec 8) : (s.setErr x y).rspOut = s.rspOut := rfl
@[simp] theorem State.setErr_rstN (x : Word) (y : BitVec 8) : (s.setErr x y).rstN = s.rstN := rfl
@[simp] theorem State.setErr_nanEpoch (x : Word) (y : BitVec 8) : (s.setErr x y).nanEpoch = s.nanEpoch := rfl
@[simp] theorem State.setErr_rbAt (x : Word) (y : BitVec 8) (j : Fin P.nRB) : (s.setErr x y).rbAt j = s.rbAt j := rfl
@[simp] theorem State.setErr_fdAt (x : Word) (y : BitVec 8) (j : Fin P.nFD) : (s.setErr x y).fdAt j = s.fdAt j := rfl
@[simp] theorem State.setErr_oscAt (x : Word) (y : BitVec 8) (j : Fin P.nOSC) : (s.setErr x y).oscAt j = s.oscAt j := rfl
@[simp] theorem State.setErr_smAt (x : Word) (y : BitVec 8) (j : Fin P.nSM) : (s.setErr x y).smAt j = s.smAt j := rfl
@[simp] theorem State.setErr_fdnAt (x : Word) (y : BitVec 8) (j : Fin P.nFDN) : (s.setErr x y).fdnAt j = s.fdnAt j := rfl

/-! ### `setPkt` -/

@[simp] theorem State.setPkt_rb (x : PacketBuf) : (s.setPkt x).rb = s.rb := rfl
@[simp] theorem State.setPkt_fd (x : PacketBuf) : (s.setPkt x).fd = s.fd := rfl
@[simp] theorem State.setPkt_osc (x : PacketBuf) : (s.setPkt x).osc = s.osc := rfl
@[simp] theorem State.setPkt_sm (x : PacketBuf) : (s.setPkt x).sm = s.sm := rfl
@[simp] theorem State.setPkt_fdn (x : PacketBuf) : (s.setPkt x).fdn = s.fdn := rfl
@[simp] theorem State.setPkt_mode (x : PacketBuf) : (s.setPkt x).mode = s.mode := rfl
@[simp] theorem State.setPkt_status (x : PacketBuf) : (s.setPkt x).status = s.status := rfl
@[simp] theorem State.setPkt_errInfo (x : PacketBuf) : (s.setPkt x).errInfo = s.errInfo := rfl
@[simp] theorem State.setPkt_errCode (x : PacketBuf) : (s.setPkt x).errCode = s.errCode := rfl
@[simp] theorem State.setPkt_pkt (x : PacketBuf) : (s.setPkt x).pkt = x := rfl
@[simp] theorem State.setPkt_cmdIn (x : PacketBuf) : (s.setPkt x).cmdIn = s.cmdIn := rfl
@[simp] theorem State.setPkt_rspOut (x : PacketBuf) : (s.setPkt x).rspOut = s.rspOut := rfl
@[simp] theorem State.setPkt_rstN (x : PacketBuf) : (s.setPkt x).rstN = s.rstN := rfl
@[simp] theorem State.setPkt_nanEpoch (x : PacketBuf) : (s.setPkt x).nanEpoch = s.nanEpoch := rfl
@[simp] theorem State.setPkt_rbAt (x : PacketBuf) (j : Fin P.nRB) : (s.setPkt x).rbAt j = s.rbAt j := rfl
@[simp] theorem State.setPkt_fdAt (x : PacketBuf) (j : Fin P.nFD) : (s.setPkt x).fdAt j = s.fdAt j := rfl
@[simp] theorem State.setPkt_oscAt (x : PacketBuf) (j : Fin P.nOSC) : (s.setPkt x).oscAt j = s.oscAt j := rfl
@[simp] theorem State.setPkt_smAt (x : PacketBuf) (j : Fin P.nSM) : (s.setPkt x).smAt j = s.smAt j := rfl
@[simp] theorem State.setPkt_fdnAt (x : PacketBuf) (j : Fin P.nFDN) : (s.setPkt x).fdnAt j = s.fdnAt j := rfl

/-! ### `setCmdIn` -/

@[simp] theorem State.setCmdIn_rb (x : List Word) : (s.setCmdIn x).rb = s.rb := rfl
@[simp] theorem State.setCmdIn_fd (x : List Word) : (s.setCmdIn x).fd = s.fd := rfl
@[simp] theorem State.setCmdIn_osc (x : List Word) : (s.setCmdIn x).osc = s.osc := rfl
@[simp] theorem State.setCmdIn_sm (x : List Word) : (s.setCmdIn x).sm = s.sm := rfl
@[simp] theorem State.setCmdIn_fdn (x : List Word) : (s.setCmdIn x).fdn = s.fdn := rfl
@[simp] theorem State.setCmdIn_mode (x : List Word) : (s.setCmdIn x).mode = s.mode := rfl
@[simp] theorem State.setCmdIn_status (x : List Word) : (s.setCmdIn x).status = s.status := rfl
@[simp] theorem State.setCmdIn_errInfo (x : List Word) : (s.setCmdIn x).errInfo = s.errInfo := rfl
@[simp] theorem State.setCmdIn_errCode (x : List Word) : (s.setCmdIn x).errCode = s.errCode := rfl
@[simp] theorem State.setCmdIn_pkt (x : List Word) : (s.setCmdIn x).pkt = s.pkt := rfl
@[simp] theorem State.setCmdIn_cmdIn (x : List Word) : (s.setCmdIn x).cmdIn = x := rfl
@[simp] theorem State.setCmdIn_rspOut (x : List Word) : (s.setCmdIn x).rspOut = s.rspOut := rfl
@[simp] theorem State.setCmdIn_rstN (x : List Word) : (s.setCmdIn x).rstN = s.rstN := rfl
@[simp] theorem State.setCmdIn_nanEpoch (x : List Word) : (s.setCmdIn x).nanEpoch = s.nanEpoch := rfl
@[simp] theorem State.setCmdIn_rbAt (x : List Word) (j : Fin P.nRB) : (s.setCmdIn x).rbAt j = s.rbAt j := rfl
@[simp] theorem State.setCmdIn_fdAt (x : List Word) (j : Fin P.nFD) : (s.setCmdIn x).fdAt j = s.fdAt j := rfl
@[simp] theorem State.setCmdIn_oscAt (x : List Word) (j : Fin P.nOSC) : (s.setCmdIn x).oscAt j = s.oscAt j := rfl
@[simp] theorem State.setCmdIn_smAt (x : List Word) (j : Fin P.nSM) : (s.setCmdIn x).smAt j = s.smAt j := rfl
@[simp] theorem State.setCmdIn_fdnAt (x : List Word) (j : Fin P.nFDN) : (s.setCmdIn x).fdnAt j = s.fdnAt j := rfl

/-! ### `setRspOut` -/

@[simp] theorem State.setRspOut_rb (x : List Word) : (s.setRspOut x).rb = s.rb := rfl
@[simp] theorem State.setRspOut_fd (x : List Word) : (s.setRspOut x).fd = s.fd := rfl
@[simp] theorem State.setRspOut_osc (x : List Word) : (s.setRspOut x).osc = s.osc := rfl
@[simp] theorem State.setRspOut_sm (x : List Word) : (s.setRspOut x).sm = s.sm := rfl
@[simp] theorem State.setRspOut_fdn (x : List Word) : (s.setRspOut x).fdn = s.fdn := rfl
@[simp] theorem State.setRspOut_mode (x : List Word) : (s.setRspOut x).mode = s.mode := rfl
@[simp] theorem State.setRspOut_status (x : List Word) : (s.setRspOut x).status = s.status := rfl
@[simp] theorem State.setRspOut_errInfo (x : List Word) : (s.setRspOut x).errInfo = s.errInfo := rfl
@[simp] theorem State.setRspOut_errCode (x : List Word) : (s.setRspOut x).errCode = s.errCode := rfl
@[simp] theorem State.setRspOut_pkt (x : List Word) : (s.setRspOut x).pkt = s.pkt := rfl
@[simp] theorem State.setRspOut_cmdIn (x : List Word) : (s.setRspOut x).cmdIn = s.cmdIn := rfl
@[simp] theorem State.setRspOut_rspOut (x : List Word) : (s.setRspOut x).rspOut = x := rfl
@[simp] theorem State.setRspOut_rstN (x : List Word) : (s.setRspOut x).rstN = s.rstN := rfl
@[simp] theorem State.setRspOut_nanEpoch (x : List Word) : (s.setRspOut x).nanEpoch = s.nanEpoch := rfl
@[simp] theorem State.setRspOut_rbAt (x : List Word) (j : Fin P.nRB) : (s.setRspOut x).rbAt j = s.rbAt j := rfl
@[simp] theorem State.setRspOut_fdAt (x : List Word) (j : Fin P.nFD) : (s.setRspOut x).fdAt j = s.fdAt j := rfl
@[simp] theorem State.setRspOut_oscAt (x : List Word) (j : Fin P.nOSC) : (s.setRspOut x).oscAt j = s.oscAt j := rfl
@[simp] theorem State.setRspOut_smAt (x : List Word) (j : Fin P.nSM) : (s.setRspOut x).smAt j = s.smAt j := rfl
@[simp] theorem State.setRspOut_fdnAt (x : List Word) (j : Fin P.nFDN) : (s.setRspOut x).fdnAt j = s.fdnAt j := rfl

/-! ### `setRstN` -/

@[simp] theorem State.setRstN_rb (x : Bool) : (s.setRstN x).rb = s.rb := rfl
@[simp] theorem State.setRstN_fd (x : Bool) : (s.setRstN x).fd = s.fd := rfl
@[simp] theorem State.setRstN_osc (x : Bool) : (s.setRstN x).osc = s.osc := rfl
@[simp] theorem State.setRstN_sm (x : Bool) : (s.setRstN x).sm = s.sm := rfl
@[simp] theorem State.setRstN_fdn (x : Bool) : (s.setRstN x).fdn = s.fdn := rfl
@[simp] theorem State.setRstN_mode (x : Bool) : (s.setRstN x).mode = s.mode := rfl
@[simp] theorem State.setRstN_status (x : Bool) : (s.setRstN x).status = s.status := rfl
@[simp] theorem State.setRstN_errInfo (x : Bool) : (s.setRstN x).errInfo = s.errInfo := rfl
@[simp] theorem State.setRstN_errCode (x : Bool) : (s.setRstN x).errCode = s.errCode := rfl
@[simp] theorem State.setRstN_pkt (x : Bool) : (s.setRstN x).pkt = s.pkt := rfl
@[simp] theorem State.setRstN_cmdIn (x : Bool) : (s.setRstN x).cmdIn = s.cmdIn := rfl
@[simp] theorem State.setRstN_rspOut (x : Bool) : (s.setRstN x).rspOut = s.rspOut := rfl
@[simp] theorem State.setRstN_rstN (x : Bool) : (s.setRstN x).rstN = x := rfl
@[simp] theorem State.setRstN_nanEpoch (x : Bool) : (s.setRstN x).nanEpoch = s.nanEpoch := rfl
@[simp] theorem State.setRstN_rbAt (x : Bool) (j : Fin P.nRB) : (s.setRstN x).rbAt j = s.rbAt j := rfl
@[simp] theorem State.setRstN_fdAt (x : Bool) (j : Fin P.nFD) : (s.setRstN x).fdAt j = s.fdAt j := rfl
@[simp] theorem State.setRstN_oscAt (x : Bool) (j : Fin P.nOSC) : (s.setRstN x).oscAt j = s.oscAt j := rfl
@[simp] theorem State.setRstN_smAt (x : Bool) (j : Fin P.nSM) : (s.setRstN x).smAt j = s.smAt j := rfl
@[simp] theorem State.setRstN_fdnAt (x : Bool) (j : Fin P.nFDN) : (s.setRstN x).fdnAt j = s.fdnAt j := rfl

/-! ### `nextDraw` -/

@[simp] theorem State.nextDraw_rb : s.nextDraw.rb = s.rb := rfl
@[simp] theorem State.nextDraw_fd : s.nextDraw.fd = s.fd := rfl
@[simp] theorem State.nextDraw_osc : s.nextDraw.osc = s.osc := rfl
@[simp] theorem State.nextDraw_sm : s.nextDraw.sm = s.sm := rfl
@[simp] theorem State.nextDraw_fdn : s.nextDraw.fdn = s.fdn := rfl
@[simp] theorem State.nextDraw_mode : s.nextDraw.mode = s.mode := rfl
@[simp] theorem State.nextDraw_status : s.nextDraw.status = s.status := rfl
@[simp] theorem State.nextDraw_errInfo : s.nextDraw.errInfo = s.errInfo := rfl
@[simp] theorem State.nextDraw_errCode : s.nextDraw.errCode = s.errCode := rfl
@[simp] theorem State.nextDraw_pkt : s.nextDraw.pkt = s.pkt := rfl
@[simp] theorem State.nextDraw_cmdIn : s.nextDraw.cmdIn = s.cmdIn := rfl
@[simp] theorem State.nextDraw_rspOut : s.nextDraw.rspOut = s.rspOut := rfl
@[simp] theorem State.nextDraw_rstN : s.nextDraw.rstN = s.rstN := rfl
@[simp] theorem State.nextDraw_nanEpoch : s.nextDraw.nanEpoch = s.nanEpoch + 1 := rfl
@[simp] theorem State.nextDraw_rbAt (j : Fin P.nRB) : s.nextDraw.rbAt j = s.rbAt j := rfl
@[simp] theorem State.nextDraw_fdAt (j : Fin P.nFD) : s.nextDraw.fdAt j = s.fdAt j := rfl
@[simp] theorem State.nextDraw_oscAt (j : Fin P.nOSC) : s.nextDraw.oscAt j = s.oscAt j := rfl
@[simp] theorem State.nextDraw_smAt (j : Fin P.nSM) : s.nextDraw.smAt j = s.smAt j := rfl
@[simp] theorem State.nextDraw_fdnAt (j : Fin P.nFDN) : s.nextDraw.fdnAt j = s.fdnAt j := rfl

/-! ### `flag` -/

@[simp] theorem State.flag_rb (x : Flag) : (s.flag x).rb = s.rb := rfl
@[simp] theorem State.flag_fd (x : Flag) : (s.flag x).fd = s.fd := rfl
@[simp] theorem State.flag_osc (x : Flag) : (s.flag x).osc = s.osc := rfl
@[simp] theorem State.flag_sm (x : Flag) : (s.flag x).sm = s.sm := rfl
@[simp] theorem State.flag_fdn (x : Flag) : (s.flag x).fdn = s.fdn := rfl
@[simp] theorem State.flag_mode (x : Flag) : (s.flag x).mode = s.mode := rfl
@[simp] theorem State.flag_status (x : Flag) : (s.flag x).status = s.status ||| x.mask := rfl
@[simp] theorem State.flag_errInfo (x : Flag) : (s.flag x).errInfo = s.errInfo := rfl
@[simp] theorem State.flag_errCode (x : Flag) : (s.flag x).errCode = s.errCode := rfl
@[simp] theorem State.flag_pkt (x : Flag) : (s.flag x).pkt = s.pkt := rfl
@[simp] theorem State.flag_cmdIn (x : Flag) : (s.flag x).cmdIn = s.cmdIn := rfl
@[simp] theorem State.flag_rspOut (x : Flag) : (s.flag x).rspOut = s.rspOut := rfl
@[simp] theorem State.flag_rstN (x : Flag) : (s.flag x).rstN = s.rstN := rfl
@[simp] theorem State.flag_nanEpoch (x : Flag) : (s.flag x).nanEpoch = s.nanEpoch := rfl
@[simp] theorem State.flag_rbAt (x : Flag) (j : Fin P.nRB) : (s.flag x).rbAt j = s.rbAt j := rfl
@[simp] theorem State.flag_fdAt (x : Flag) (j : Fin P.nFD) : (s.flag x).fdAt j = s.fdAt j := rfl
@[simp] theorem State.flag_oscAt (x : Flag) (j : Fin P.nOSC) : (s.flag x).oscAt j = s.oscAt j := rfl
@[simp] theorem State.flag_smAt (x : Flag) (j : Fin P.nSM) : (s.flag x).smAt j = s.smAt j := rfl
@[simp] theorem State.flag_fdnAt (x : Flag) (j : Fin P.nFDN) : (s.flag x).fdnAt j = s.fdnAt j := rfl

/-! ### `flagIf` -/

@[simp] theorem State.flagIf_rb (c : Bool) (x : Flag) : (s.flagIf c x).rb = s.rb := rfl
@[simp] theorem State.flagIf_fd (c : Bool) (x : Flag) : (s.flagIf c x).fd = s.fd := rfl
@[simp] theorem State.flagIf_osc (c : Bool) (x : Flag) : (s.flagIf c x).osc = s.osc := rfl
@[simp] theorem State.flagIf_sm (c : Bool) (x : Flag) : (s.flagIf c x).sm = s.sm := rfl
@[simp] theorem State.flagIf_fdn (c : Bool) (x : Flag) : (s.flagIf c x).fdn = s.fdn := rfl
@[simp] theorem State.flagIf_mode (c : Bool) (x : Flag) : (s.flagIf c x).mode = s.mode := rfl
@[simp] theorem State.flagIf_status (c : Bool) (x : Flag) : (s.flagIf c x).status = if c then s.status ||| x.mask else s.status := rfl
@[simp] theorem State.flagIf_errInfo (c : Bool) (x : Flag) : (s.flagIf c x).errInfo = s.errInfo := rfl
@[simp] theorem State.flagIf_errCode (c : Bool) (x : Flag) : (s.flagIf c x).errCode = s.errCode := rfl
@[simp] theorem State.flagIf_pkt (c : Bool) (x : Flag) : (s.flagIf c x).pkt = s.pkt := rfl
@[simp] theorem State.flagIf_cmdIn (c : Bool) (x : Flag) : (s.flagIf c x).cmdIn = s.cmdIn := rfl
@[simp] theorem State.flagIf_rspOut (c : Bool) (x : Flag) : (s.flagIf c x).rspOut = s.rspOut := rfl
@[simp] theorem State.flagIf_rstN (c : Bool) (x : Flag) : (s.flagIf c x).rstN = s.rstN := rfl
@[simp] theorem State.flagIf_nanEpoch (c : Bool) (x : Flag) : (s.flagIf c x).nanEpoch = s.nanEpoch := rfl
@[simp] theorem State.flagIf_rbAt (c : Bool) (x : Flag) (j : Fin P.nRB) : (s.flagIf c x).rbAt j = s.rbAt j := rfl
@[simp] theorem State.flagIf_fdAt (c : Bool) (x : Flag) (j : Fin P.nFD) : (s.flagIf c x).fdAt j = s.fdAt j := rfl
@[simp] theorem State.flagIf_oscAt (c : Bool) (x : Flag) (j : Fin P.nOSC) : (s.flagIf c x).oscAt j = s.oscAt j := rfl
@[simp] theorem State.flagIf_smAt (c : Bool) (x : Flag) (j : Fin P.nSM) : (s.flagIf c x).smAt j = s.smAt j := rfl
@[simp] theorem State.flagIf_fdnAt (c : Bool) (x : Flag) (j : Fin P.nFDN) : (s.flagIf c x).fdnAt j = s.fdnAt j := rfl

/-! ### `respond`: only the response stream changes -/

@[simp] theorem respond_rb (w : Word) (l : List Word) : (respond w l s).rb = s.rb := rfl
@[simp] theorem respond_fd (w : Word) (l : List Word) : (respond w l s).fd = s.fd := rfl
@[simp] theorem respond_osc (w : Word) (l : List Word) : (respond w l s).osc = s.osc := rfl
@[simp] theorem respond_sm (w : Word) (l : List Word) : (respond w l s).sm = s.sm := rfl
@[simp] theorem respond_fdn (w : Word) (l : List Word) : (respond w l s).fdn = s.fdn := rfl
@[simp] theorem respond_mode (w : Word) (l : List Word) : (respond w l s).mode = s.mode := rfl
@[simp] theorem respond_status (w : Word) (l : List Word) : (respond w l s).status = s.status := rfl
@[simp] theorem respond_errInfo (w : Word) (l : List Word) : (respond w l s).errInfo = s.errInfo := rfl
@[simp] theorem respond_errCode (w : Word) (l : List Word) : (respond w l s).errCode = s.errCode := rfl
@[simp] theorem respond_pkt (w : Word) (l : List Word) : (respond w l s).pkt = s.pkt := rfl
@[simp] theorem respond_cmdIn (w : Word) (l : List Word) : (respond w l s).cmdIn = s.cmdIn := rfl
@[simp] theorem respond_rspOut (w : Word) (l : List Word) : (respond w l s).rspOut = s.rspOut ++ acceptedPacket w l := rfl
@[simp] theorem respond_rstN (w : Word) (l : List Word) : (respond w l s).rstN = s.rstN := rfl
@[simp] theorem respond_nanEpoch (w : Word) (l : List Word) : (respond w l s).nanEpoch = s.nanEpoch := rfl
@[simp] theorem respond_rbAt (w : Word) (l : List Word) (j : Fin P.nRB) : (respond w l s).rbAt j = s.rbAt j := rfl
@[simp] theorem respond_fdAt (w : Word) (l : List Word) (j : Fin P.nFD) : (respond w l s).fdAt j = s.fdAt j := rfl
@[simp] theorem respond_oscAt (w : Word) (l : List Word) (j : Fin P.nOSC) : (respond w l s).oscAt j = s.oscAt j := rfl
@[simp] theorem respond_smAt (w : Word) (l : List Word) (j : Fin P.nSM) : (respond w l s).smAt j = s.smAt j := rfl
@[simp] theorem respond_fdnAt (w : Word) (l : List Word) (j : Fin P.nFDN) : (respond w l s).fdnAt j = s.fdnAt j := rfl

/-! ### `refuse`: the error record and the response stream change -/

@[simp] theorem refuse_rb (w : Word) (e : CmdError) : (refuse w e s).rb = s.rb := by
  unfold refuse recordError; split <;> rfl
@[simp] theorem refuse_fd (w : Word) (e : CmdError) : (refuse w e s).fd = s.fd := by
  unfold refuse recordError; split <;> rfl
@[simp] theorem refuse_osc (w : Word) (e : CmdError) : (refuse w e s).osc = s.osc := by
  unfold refuse recordError; split <;> rfl
@[simp] theorem refuse_sm (w : Word) (e : CmdError) : (refuse w e s).sm = s.sm := by
  unfold refuse recordError; split <;> rfl
@[simp] theorem refuse_fdn (w : Word) (e : CmdError) : (refuse w e s).fdn = s.fdn := by
  unfold refuse recordError; split <;> rfl
@[simp] theorem refuse_mode (w : Word) (e : CmdError) : (refuse w e s).mode = s.mode := by
  unfold refuse recordError; split <;> rfl
@[simp] theorem refuse_status (w : Word) (e : CmdError) : (refuse w e s).status = s.status ||| Flag.fCmd.mask := by
  unfold refuse recordError; split <;> rfl
@[simp] theorem refuse_errInfo (w : Word) (e : CmdError) : (refuse w e s).errInfo = if s.hasFlag .fCmd then s.errInfo else w := by
  unfold refuse recordError; split <;> rfl
@[simp] theorem refuse_errCode (w : Word) (e : CmdError) : (refuse w e s).errCode = if s.hasFlag .fCmd then s.errCode else e.code := by
  unfold refuse recordError; split <;> rfl
@[simp] theorem refuse_pkt (w : Word) (e : CmdError) : (refuse w e s).pkt = s.pkt := by
  unfold refuse recordError; split <;> rfl
@[simp] theorem refuse_cmdIn (w : Word) (e : CmdError) : (refuse w e s).cmdIn = s.cmdIn := by
  unfold refuse recordError; split <;> rfl
@[simp] theorem refuse_rspOut (w : Word) (e : CmdError) : (refuse w e s).rspOut = s.rspOut ++ refusedPacket w e := rfl
@[simp] theorem refuse_rstN (w : Word) (e : CmdError) : (refuse w e s).rstN = s.rstN := by
  unfold refuse recordError; split <;> rfl
@[simp] theorem refuse_nanEpoch (w : Word) (e : CmdError) : (refuse w e s).nanEpoch = s.nanEpoch := by
  unfold refuse recordError; split <;> rfl
@[simp] theorem refuse_rbAt (w : Word) (e : CmdError) (j : Fin P.nRB) : (refuse w e s).rbAt j = s.rbAt j := by
  unfold State.rbAt; simp only [refuse_rb]
@[simp] theorem refuse_fdAt (w : Word) (e : CmdError) (j : Fin P.nFD) : (refuse w e s).fdAt j = s.fdAt j := by
  unfold State.fdAt; simp only [refuse_fd]
@[simp] theorem refuse_oscAt (w : Word) (e : CmdError) (j : Fin P.nOSC) : (refuse w e s).oscAt j = s.oscAt j := by
  unfold State.oscAt; simp only [refuse_osc]
@[simp] theorem refuse_smAt (w : Word) (e : CmdError) (j : Fin P.nSM) : (refuse w e s).smAt j = s.smAt j := by
  unfold State.smAt; simp only [refuse_sm]
@[simp] theorem refuse_fdnAt (w : Word) (e : CmdError) (j : Fin P.nFDN) : (refuse w e s).fdnAt j = s.fdnAt j := by
  unfold State.fdnAt; simp only [refuse_fdn]

/-! ### One instance after it, or another, was replaced -/

@[simp] theorem State.setRb_rbAt_self (i : Fin P.nRB) (x : RbInst) : (s.setRb i x).rbAt i = x := by
  simp [State.rbAt]
theorem State.setRb_rbAt_ne (x : RbInst) {i j : Fin P.nRB} (h : i ≠ j) : (s.setRb i x).rbAt j = s.rbAt j := by
  have h' : i.val ≠ j.val := fun e => h (Fin.ext e)
  simp [State.rbAt, h']
@[simp] theorem State.setFd_fdAt_self (i : Fin P.nFD) (x : FdInst) : (s.setFd i x).fdAt i = x := by
  simp [State.fdAt]
theorem State.setFd_fdAt_ne (x : FdInst) {i j : Fin P.nFD} (h : i ≠ j) : (s.setFd i x).fdAt j = s.fdAt j := by
  have h' : i.val ≠ j.val := fun e => h (Fin.ext e)
  simp [State.fdAt, h']
@[simp] theorem State.setOsc_oscAt_self (i : Fin P.nOSC) (x : OscInst) : (s.setOsc i x).oscAt i = x := by
  simp [State.oscAt]
theorem State.setOsc_oscAt_ne (x : OscInst) {i j : Fin P.nOSC} (h : i ≠ j) : (s.setOsc i x).oscAt j = s.oscAt j := by
  have h' : i.val ≠ j.val := fun e => h (Fin.ext e)
  simp [State.oscAt, h']
@[simp] theorem State.setSm_smAt_self (i : Fin P.nSM) (x : SmInst) : (s.setSm i x).smAt i = x := by
  simp [State.smAt]
theorem State.setSm_smAt_ne (x : SmInst) {i j : Fin P.nSM} (h : i ≠ j) : (s.setSm i x).smAt j = s.smAt j := by
  have h' : i.val ≠ j.val := fun e => h (Fin.ext e)
  simp [State.smAt, h']
@[simp] theorem State.setFdn_fdnAt_self (i : Fin P.nFDN) (x : FdnInst) : (s.setFdn i x).fdnAt i = x := by
  simp [State.fdnAt]
theorem State.setFdn_fdnAt_ne (x : FdnInst) {i j : Fin P.nFDN} (h : i ≠ j) : (s.setFdn i x).fdnAt j = s.fdnAt j := by
  have h' : i.val ≠ j.val := fun e => h (Fin.ext e)
  simp [State.fdnAt, h']

/-! ## The state right after reset (R65) -/

theorem State.reset_eq : State.reset = State.resetFor thisHardware := rfl

@[simp] theorem State.resetFor_rbAt (j : Fin P.nRB) : (State.resetFor P).rbAt j = RbInst.reset :=
  Vector.getElem_replicate _
@[simp] theorem State.resetFor_fdAt (j : Fin P.nFD) : (State.resetFor P).fdAt j = FdInst.reset :=
  Vector.getElem_replicate _
@[simp] theorem State.resetFor_oscAt (j : Fin P.nOSC) : (State.resetFor P).oscAt j = OscInst.reset :=
  Vector.getElem_replicate _
@[simp] theorem State.resetFor_smAt (j : Fin P.nSM) : (State.resetFor P).smAt j = SmInst.reset :=
  Vector.getElem_replicate _
@[simp] theorem State.resetFor_fdnAt (j : Fin P.nFDN) : (State.resetFor P).fdnAt j = FdnInst.reset :=
  Vector.getElem_replicate _
@[simp] theorem State.resetFor_mode : (State.resetFor P).mode = .prepare := rfl
@[simp] theorem State.resetFor_status : (State.resetFor P).status = 0 := rfl
@[simp] theorem State.resetFor_errInfo : (State.resetFor P).errInfo = 0 := rfl
@[simp] theorem State.resetFor_errCode : (State.resetFor P).errCode = 0 := rfl
@[simp] theorem State.resetFor_pkt : (State.resetFor P).pkt = PacketBuf.empty := rfl
@[simp] theorem State.resetFor_cmdIn : (State.resetFor P).cmdIn = [] := rfl
@[simp] theorem State.resetFor_rspOut : (State.resetFor P).rspOut = [] := rfl
@[simp] theorem State.resetFor_rstN : (State.resetFor P).rstN = true := rfl
@[simp] theorem State.resetFor_nanEpoch : (State.resetFor P).nanEpoch = 0 := rfl

@[simp] theorem resetState_rbAt (j : Fin P.nRB) : (resetState s).rbAt j = RbInst.reset :=
  Vector.getElem_replicate _
@[simp] theorem resetState_fdAt (j : Fin P.nFD) : (resetState s).fdAt j = FdInst.reset :=
  Vector.getElem_replicate _
@[simp] theorem resetState_oscAt (j : Fin P.nOSC) : (resetState s).oscAt j = OscInst.reset :=
  Vector.getElem_replicate _
@[simp] theorem resetState_smAt (j : Fin P.nSM) : (resetState s).smAt j = SmInst.reset :=
  Vector.getElem_replicate _
@[simp] theorem resetState_fdnAt (j : Fin P.nFDN) : (resetState s).fdnAt j = FdnInst.reset :=
  Vector.getElem_replicate _
@[simp] theorem resetState_mode : (resetState s).mode = (State.resetFor P).mode := rfl
@[simp] theorem resetState_status : (resetState s).status = (State.resetFor P).status := rfl
@[simp] theorem resetState_errInfo : (resetState s).errInfo = (State.resetFor P).errInfo := rfl
@[simp] theorem resetState_errCode : (resetState s).errCode = (State.resetFor P).errCode := rfl
@[simp] theorem resetState_pkt : (resetState s).pkt = (State.resetFor P).pkt := rfl
@[simp] theorem resetState_cmdIn : (resetState s).cmdIn = s.cmdIn := rfl
@[simp] theorem resetState_rspOut : (resetState s).rspOut = s.rspOut := rfl
@[simp] theorem resetState_rstN : (resetState s).rstN = s.rstN := rfl
@[simp] theorem resetState_nanEpoch : (resetState s).nanEpoch = s.nanEpoch := rfl

end Machine
end Sys2Proof
end

