-- ==== Sys2Proof/Laws/Exec.lean ====
section
/-! SUPPORT. For each operation the commands share, once, everything it can answer; and for each
command, its answer as one equation under the conditions of its rule. -/

namespace Sys2Proof
namespace Machine

variable {P : Params}

/-! ## This hardware as one of the PDCs -/

/-- `exec` is the dispatch of a PDC with any parameters, at those of this hardware (R8). -/
theorem exec_eq_execFor (i : Instr) (s : State) : exec i s = execFor i s := by cases i <;> rfl

theorem thisHardware_nRB : thisHardware.nRB = 16 := rfl
theorem thisHardware_nFD : thisHardware.nFD = 8 := rfl
theorem thisHardware_nOSC : thisHardware.nOSC = 8 := rfl
theorem thisHardware_nSM : thisHardware.nSM = 16 := rfl
theorem thisHardware_nFDN : thisHardware.nFDN = 2 := rfl
theorem thisHardware_capMax : thisHardware.capMax = 65536 := rfl
theorem thisHardware_capLog2Max : thisHardware.capLog2Max = 16 := rfl
theorem thisHardware_oscPhaseWrap : thisHardware.oscPhaseWrap = true := rfl
theorem thisHardware_fdDesign : thisHardware.fdDesign = cookbookDesign := rfl

/-! ## The checks (R322) -/

theorem withInst_ok {n : Nat} {i : Inst} {w : Word} {s : State P} {k : Fin n → Result P}
    (h : i.toNat < n) : withInst n i w s k = k ⟨i.toNat, h⟩ := by
  simp [withInst, h]

theorem withInst_refused {n : Nat} {i : Inst} {w : Word} {s : State P} {k : Fin n → Result P}
    (h : ¬ i.toNat < n) : withInst n i w s k = .next (refuse w .eInst s) := by
  simp [withInst, h]

/-- Step 4 passes or the command is refused. -/
theorem withInst_cases (n : Nat) (i : Inst) (w : Word) (s : State P) (k : Fin n → Result P) :
    (∃ h : i.toNat < n, withInst n i w s k = k ⟨i.toNat, h⟩) ∨
      (¬ i.toNat < n ∧ withInst n i w s k = .next (refuse w .eInst s)) := by
  by_cases h : i.toNat < n
  · exact .inl ⟨h, withInst_ok h⟩
  · exact .inr ⟨h, withInst_refused h⟩

theorem inPrepare_ok {w : Word} {s : State P} {k : Result P} (h : s.mode = .prepare) :
    inPrepare w s k = k := by
  simp [inPrepare, h]

theorem inPrepare_refused {w : Word} {s : State P} {k : Result P} (h : s.mode ≠ .prepare) :
    inPrepare w s k = .next (refuse w .eMode s) := by
  simp [inPrepare, h]

/-- Step 5 passes or the command is refused. -/
theorem inPrepare_cases (w : Word) (s : State P) (k : Result P) :
    (s.mode = .prepare ∧ inPrepare w s k = k) ∨
      (s.mode ≠ .prepare ∧ inPrepare w s k = .next (refuse w .eMode s)) := by
  by_cases h : s.mode = .prepare
  · exact .inl ⟨h, inPrepare_ok h⟩
  · exact .inr ⟨h, inPrepare_refused h⟩

theorem withBuffer_ok {i : Inst} {w : Word} {s : State P} {k : Fin P.nRB → Result P}
    (h : i.toNat < P.nRB) (hv : (s.rbAt ⟨i.toNat, h⟩).valid = true) :
    withBuffer i w s k = k ⟨i.toNat, h⟩ := by
  rw [withBuffer, withInst_ok h, if_pos hv]

theorem withBuffer_refused {i : Inst} {w : Word} {s : State P} {k : Fin P.nRB → Result P}
    (h : i.toNat < P.nRB) (hv : (s.rbAt ⟨i.toNat, h⟩).valid = false) :
    withBuffer i w s k = .next (refuse w .eNobuf s) := by
  rw [withBuffer, withInst_ok h, if_neg (by simp [hv])]

/-- Steps 4 and 6 pass or the command is refused. -/
theorem withBuffer_cases (i : Inst) (w : Word) (s : State P) (k : Fin P.nRB → Result P) :
    (∃ h : i.toNat < P.nRB, (s.rbAt ⟨i.toNat, h⟩).valid = true ∧
        withBuffer i w s k = k ⟨i.toNat, h⟩) ∨
      (∃ h : i.toNat < P.nRB, (s.rbAt ⟨i.toNat, h⟩).valid = false ∧
        withBuffer i w s k = .next (refuse w .eNobuf s)) ∨
      (¬ i.toNat < P.nRB ∧ withBuffer i w s k = .next (refuse w .eInst s)) := by
  by_cases h : i.toNat < P.nRB
  · by_cases hv : (s.rbAt ⟨i.toNat, h⟩).valid = true
    · exact .inl ⟨h, hv, withBuffer_ok h hv⟩
    · have hf : (s.rbAt ⟨i.toNat, h⟩).valid = false := by simpa using hv
      exact .inr (.inl ⟨h, hf, withBuffer_refused h hf⟩)
  · exact .inr (.inr ⟨h, withInst_refused h⟩)

theorem nextOrFault_eq_next {x : Except Fault (State P)} {t : State P} :
    nextOrFault x = .next t ↔ x = .ok t := by
  cases x <;> simp [nextOrFault]

/-! ## Reads -/

/-- The word a valid buffer answers at an integer delay (R134). -/
def RbInst.delayed (r : RbInst) (d : Word) : Word := Memory.read r.storage (slotOf r d)

theorem ringReadInt_delayed {r : RbInst} (h : r.Inv P) (hv : r.valid = true) (d : Word) :
    ringReadInt r d = .ok (r.delayed d) := ringReadInt_ok h hv d

theorem ringReadInt_cases (r : RbInst) (d : Word) :
    ringReadInt r d = .ok (r.delayed d) ∨ ringReadInt r d = .error .noSuchSlot :=
  memRead_cases r _

/-- The value a fractional read of a valid buffer has (R144). -/
def RbInst.interpolated (q : Nat → Word) (r : RbInst) (n : Word) (f : F32) : Policy → F32
  | .none => r.delayed n
  | .linear => interpLinear q (r.delayed n) (r.delayed (n + 1)) f
  | .hermite =>
      interpHermite q (r.delayed (n - 1)) (r.delayed n) (r.delayed (n + 1)) (r.delayed (n + 2)) f
  | .lagrange =>
      interpLagrange q (r.delayed (n - 1)) (r.delayed n) (r.delayed (n + 1)) (r.delayed (n + 2)) f

theorem readPolicy_ok {q : Nat → Word} {r : RbInst} (h : r.Inv P) (hv : r.valid = true) (n : Word)
    (f : F32) (p : Policy) : readPolicy q r n f p = .ok (r.interpolated q n f p) := by
  cases p <;>
    simp [readPolicy, taps4, ringReadInt_delayed h hv, RbInst.interpolated, bind, Except.bind,
      pure, Except.pure]

/-- The value of `rb_read_frac` on a valid buffer (R144). -/
def RbInst.fractional (q : Nat → Word) (r : RbInst) (d : F32) (p : Policy) : F32 :=
  r.interpolated q (splitDelay (q 31) d).n (splitDelay (q 31) d).f p

theorem ringReadFrac_ok {q : Nat → Word} {r : RbInst} (h : r.Inv P) (hv : r.valid = true) (d : F32)
    (p : Policy) :
    ringReadFrac q r d p = .ok (r.fractional q d p, realDelayBeyond r (splitDelay (q 31) d)) := by
  simp [ringReadFrac, readPolicy_ok h hv, RbInst.fractional, bind, Except.bind, pure, Except.pure]

/-! ## System -/

theorem execSysReset_eq (s : State P) :
    execSysReset s = .next (respond (commandWord .sysReset) [] (resetState s)) := rfl

theorem execSysPrepare_eq (s : State P) :
    execSysPrepare s = .next (respond (commandWord .sysPrepare) [] (s.setMode .prepare)) := rfl

theorem execSysStart_eq (s : State P) :
    execSysStart s = .next (respond (commandWord .sysStart) [] (s.setMode .run)) := rfl

theorem execSysRdcsr_eq (c : Csr) (s : State P) :
    execSysRdcsr c s = .next (respond (commandWord (.sysRdcsr c)) [csrValue s c] s) := rfl

theorem execSysClrstatus_eq (m : Word) (s : State P) :
    execSysClrstatus m s =
      .next (respond (commandWord (.sysClrstatus m)) [] (clearStatus m s)) := rfl

/-! ## Ring buffer -/

variable {i : Inst} {s : State P}

theorem execRbCreate_ok (h : i.toNat < P.nRB) (hm : s.mode = .prepare) {n : Word}
    (hn : n.toNat ≤ P.capMax) :
    execRbCreate i n s = .next (respond (commandWord (.rbCreate i n)) []
      (s.setRb ⟨i.toNat, h⟩ (freshBuffer n))) := by
  simp only [execRbCreate]
  rw [withInst_ok h, inPrepare_ok hm, if_neg (by omega)]

theorem execRbCreate_mode (h : i.toNat < P.nRB) (hm : s.mode ≠ .prepare) (n : Word) :
    execRbCreate i n s = .next (refuse (commandWord (.rbCreate i n)) .eMode s) := by
  simp only [execRbCreate]
  rw [withInst_ok h, inPrepare_refused hm]

theorem execRbCreate_capacity (h : i.toNat < P.nRB) (hm : s.mode = .prepare) {n : Word}
    (hn : P.capMax < n.toNat) :
    execRbCreate i n s = .next (refuse (commandWord (.rbCreate i n)) .eCapacity s) := by
  simp only [execRbCreate]
  rw [withInst_ok h, inPrepare_ok hm, if_pos hn]

theorem execRbDestroy_ok (h : i.toNat < P.nRB) (hm : s.mode = .prepare) :
    execRbDestroy i s = .next (respond (commandWord (.rbDestroy i)) []
      (s.setRb ⟨i.toNat, h⟩ RbInst.reset)) := by
  simp only [execRbDestroy]
  rw [withInst_ok h, inPrepare_ok hm]

theorem execRbDestroy_mode (h : i.toNat < P.nRB) (hm : s.mode ≠ .prepare) :
    execRbDestroy i s = .next (refuse (commandWord (.rbDestroy i)) .eMode s) := by
  simp only [execRbDestroy]
  rw [withInst_ok h, inPrepare_refused hm]

theorem execRbWrite_ok (h : i.toNat < P.nRB) (hi : (s.rbAt ⟨i.toNat, h⟩).Inv P)
    (hv : (s.rbAt ⟨i.toNat, h⟩).valid = true) (v : F32) :
    execRbWrite i v s = .next (respond (commandWord (.rbWrite i v)) []
      (s.setRb ⟨i.toNat, h⟩ ((s.rbAt ⟨i.toNat, h⟩).written v))) := by
  simp only [execRbWrite]
  rw [withBuffer_ok h hv, ringWriteAt_ok hi hv]
  rfl

theorem execRbReadi_ok (h : i.toNat < P.nRB) (hi : (s.rbAt ⟨i.toNat, h⟩).Inv P)
    (hv : (s.rbAt ⟨i.toNat, h⟩).valid = true) (d : Word) :
    execRbReadi i d s = .next (respond (commandWord (.rbReadi i d))
      [(s.rbAt ⟨i.toNat, h⟩).delayed d]
      (s.flagIf (delayBeyond (s.rbAt ⟨i.toNat, h⟩) d) .fDelay)) := by
  simp only [execRbReadi]
  rw [withBuffer_ok h hv, ringReadInt_delayed hi hv]
  rfl

theorem execRbReadf_ok (h : i.toNat < P.nRB) (hi : (s.rbAt ⟨i.toNat, h⟩).Inv P)
    (hv : (s.rbAt ⟨i.toNat, h⟩).valid = true) (p : Policy) (d : F32) :
    execRbReadf i p d s = .next (respond (commandWord (.rbReadf i p d))
      [(s.rbAt ⟨i.toNat, h⟩).fractional s.draws d p]
      (s.flagIf (realDelayBeyond (s.rbAt ⟨i.toNat, h⟩) (splitDelay (s.draws 31) d))
        .fDelay).nextDraw) := by
  simp only [execRbReadf]
  rw [withBuffer_ok h hv, ringReadFrac_ok hi hv]
  rfl

theorem execRbWrite_nobuf (h : i.toNat < P.nRB)
    (hv : (s.rbAt ⟨i.toNat, h⟩).valid = false) (v : F32) :
    execRbWrite i v s = .next (refuse (commandWord (.rbWrite i v)) .eNobuf s) :=
  withBuffer_refused h hv

theorem execRbReadi_nobuf (h : i.toNat < P.nRB)
    (hv : (s.rbAt ⟨i.toNat, h⟩).valid = false) (d : Word) :
    execRbReadi i d s = .next (refuse (commandWord (.rbReadi i d)) .eNobuf s) :=
  withBuffer_refused h hv

theorem execRbReadf_nobuf (h : i.toNat < P.nRB)
    (hv : (s.rbAt ⟨i.toNat, h⟩).valid = false) (p : Policy) (d : F32) :
    execRbReadf i p d s = .next (refuse (commandWord (.rbReadf i p d)) .eNobuf s) :=
  withBuffer_refused h hv

/-! ## Filter designer, oscillator, smoother -/

theorem execFdSetparam_ok (h : i.toNat < P.nFD) (c sr q g : F32) :
    execFdSetparam i c sr q g s = .next (respond (commandWord (.fdSetparam i c sr q g)) []
      (((s.setFd ⟨i.toNat, h⟩ (fdSetParams s.draws c sr q g (s.fdAt ⟨i.toNat, h⟩))).flagIf
        (fdParamBad c sr q) .fParam).nextDraw)) := by
  simp only [execFdSetparam]
  rw [withInst_ok h]

theorem execFdCompute_ok (h : i.toNat < P.nFD) (sh : Shape) :
    execFdCompute i sh s = .next (respond (commandWord (.fdCompute i sh)) []
      (((s.setFd ⟨i.toNat, h⟩
        (fdComputeShape P.fdDesign s.draws sh (s.fdAt ⟨i.toNat, h⟩))).flagIf
        (shapeWithoutFormula sh) .fShape).nextDraw)) := by
  simp only [execFdCompute]
  rw [withInst_ok h]

theorem execFdGetcoef_ok (h : i.toNat < P.nFD) :
    execFdGetcoef i s = .next (respond (commandWord (.fdGetcoef i))
      (s.fdAt ⟨i.toNat, h⟩).coefs s) := by
  simp only [execFdGetcoef]
  rw [withInst_ok h]

/-- TRAPEZOID as one sum (R214); its terms are never evaluated. -/
theorem waveTrapezoid_eq (v : Nat → Word) (angle : F32) :
    waveTrapezoid v angle =
      (List.range 16).foldl (fun acc n =>
        fadd (v (4 * n + 3)) acc
          (fdiv (v (4 * n + 2))
            (fsin (v (4 * n + 1)) (fmul (v (4 * n)) (u2f (BitVec.ofNat 32 (2 * n + 1))) angle))
            (u2f (BitVec.ofNat 32 (2 * n + 1))))) fZero := by
  unfold waveTrapezoid
  congr 1

theorem execOscProcess_ok (h : i.toNat < P.nOSC) (wv : Wave) (f sr po : F32) :
    execOscProcess i wv f sr po s = .next (respond (commandWord (.oscProcess i wv f sr po))
      [oscSample s.draws wv po (s.oscAt ⟨i.toNat, h⟩)]
      (((s.setOsc ⟨i.toNat, h⟩ (oscAdvance P.oscPhaseWrap s.draws f sr
        (s.oscAt ⟨i.toNat, h⟩))).flagIf (oscParamBad sr) .fParam).nextDraw)) := by
  simp only [execOscProcess]
  rw [withInst_ok h]

theorem execSmConfig_ok (h : i.toNat < P.nSM) (t sr : F32) :
    execSmConfig i t sr s = .next (respond (commandWord (.smConfig i t sr)) []
      (((s.setSm ⟨i.toNat, h⟩ (smConfigure s.draws t sr (s.smAt ⟨i.toNat, h⟩))).flagIf
        (smParamBad t sr) .fParam).nextDraw)) := by
  simp only [execSmConfig]
  rw [withInst_ok h]

theorem execSmProcess_ok (h : i.toNat < P.nSM) (v : SmVar) (t : F32) :
    execSmProcess i v t s = .next (respond (commandWord (.smProcess i v t))
      [smNext s.draws v t (s.smAt ⟨i.toNat, h⟩)]
      (s.setSm ⟨i.toNat, h⟩ { s.smAt ⟨i.toNat, h⟩ with
        z := smNext s.draws v t (s.smAt ⟨i.toNat, h⟩)
        zPrev := (s.smAt ⟨i.toNat, h⟩).z }).nextDraw) := by
  simp only [execSmProcess]
  rw [withInst_ok h]

/-! ## Delay lines -/

theorem execApfProcess_ok (h : i.toNat < P.nRB) (hi : (s.rbAt ⟨i.toNat, h⟩).Inv P)
    (hv : (s.rbAt ⟨i.toNat, h⟩).valid = true) (v : ApfVar) (p : Policy) (x d g : F32) :
    execApfProcess i v p x d g s = .next (respond (commandWord (.apfProcess i v p x d g))
      [apfOut (drawsFrom s.draws 32) v ((s.rbAt ⟨i.toNat, h⟩).fractional s.draws d p) x g]
      (((s.setRb ⟨i.toNat, h⟩ ((s.rbAt ⟨i.toNat, h⟩).written
          (feedbackInput (drawsFrom s.draws 40) x
            ((s.rbAt ⟨i.toNat, h⟩).fractional s.draws d p) g))).flagIf
        (realDelayBeyond (s.rbAt ⟨i.toNat, h⟩) (splitDelay (s.draws 31) d)) .fDelay).flagIf
        (gainOutOfRange g) .fGain).nextDraw) := by
  simp only [execApfProcess]
  rw [withBuffer_ok h hv, ringReadFrac_ok hi hv]
  simp only [bind, Except.bind]
  rw [ringWriteAt_ok hi hv]
  rfl

theorem execCombProcess_ok (h : i.toNat < P.nRB) (hi : (s.rbAt ⟨i.toNat, h⟩).Inv P)
    (hv : (s.rbAt ⟨i.toNat, h⟩).valid = true) (p : Policy) (x d g m : F32) :
    execCombProcess i p x d g m s = .next (respond (commandWord (.combProcess i p x d g m))
      [mixOut (drawsFrom s.draws 32) ((s.rbAt ⟨i.toNat, h⟩).fractional s.draws d p) x m]
      (((s.setRb ⟨i.toNat, h⟩ ((s.rbAt ⟨i.toNat, h⟩).written
          (feedbackInput (drawsFrom s.draws 40) x
            ((s.rbAt ⟨i.toNat, h⟩).fractional s.draws d p) g))).flagIf
        (realDelayBeyond (s.rbAt ⟨i.toNat, h⟩) (splitDelay (s.draws 31) d)) .fDelay).flagIf
        (gainOutOfRange g) .fGain).nextDraw) := by
  simp only [execCombProcess]
  rw [withBuffer_ok h hv, ringReadFrac_ok hi hv]
  simp only [bind, Except.bind]
  rw [ringWriteAt_ok hi hv]
  rfl

theorem execApfProcess_nobuf (h : i.toNat < P.nRB)
    (hv : (s.rbAt ⟨i.toNat, h⟩).valid = false) (v : ApfVar) (p : Policy) (x d g : F32) :
    execApfProcess i v p x d g s = .next (refuse (commandWord (.apfProcess i v p x d g)) .eNobuf s) :=
  withBuffer_refused h hv

theorem execCombProcess_nobuf (h : i.toNat < P.nRB)
    (hv : (s.rbAt ⟨i.toNat, h⟩).valid = false) (p : Policy) (x d g m : F32) :
    execCombProcess i p x d g m s = .next (refuse (commandWord (.combProcess i p x d g m)) .eNobuf s) :=
  withBuffer_refused h hv

/-! ## Feedback delay network -/

theorem execFdnBind_ok (h : i.toNat < P.nFDN) (hm : s.mode = .prepare) {r0 r1 r2 r3 : Word}
    (hb : (bindOperandOk P r0 && bindOperandOk P r1 && bindOperandOk P r2 && bindOperandOk P r3) = true) :
    execFdnBind i r0 r1 r2 r3 s = .next (respond (commandWord (.fdnBind i r0 r1 r2 r3)) []
      (s.setFdn ⟨i.toNat, h⟩ { s.fdnAt ⟨i.toNat, h⟩ with
        line := #v[r0.setWidth 8, r1.setWidth 8, r2.setWidth 8, r3.setWidth 8]
        bound := true })) := by
  simp only [execFdnBind]
  rw [withInst_ok h, if_pos hb, inPrepare_ok hm]

theorem execFdnBind_mode (h : i.toNat < P.nFDN) (hm : s.mode ≠ .prepare)
    {r0 r1 r2 r3 : Word}
    (hb : (bindOperandOk P r0 && bindOperandOk P r1 && bindOperandOk P r2 && bindOperandOk P r3) = true) :
    execFdnBind i r0 r1 r2 r3 s =
      .next (refuse (commandWord (.fdnBind i r0 r1 r2 r3)) .eMode s) := by
  simp only [execFdnBind]
  rw [withInst_ok h, if_pos hb, inPrepare_refused hm]

theorem execFdnSetlen_ok (h : i.toNat < P.nFDN) (l0 l1 l2 l3 : Word) :
    execFdnSetlen i l0 l1 l2 l3 s = .next (respond (commandWord (.fdnSetlen i l0 l1 l2 l3)) []
      (s.setFdn ⟨i.toNat, h⟩ { s.fdnAt ⟨i.toNat, h⟩ with len := #v[l0, l1, l2, l3] })) := by
  simp only [execFdnSetlen]
  rw [withInst_ok h]

theorem execFdnSetrot_ok (h : i.toNat < P.nFDN) (c sn : F32) :
    execFdnSetrot i c sn s = .next (respond (commandWord (.fdnSetrot i c sn)) []
      (s.setFdn ⟨i.toNat, h⟩ { s.fdnAt ⟨i.toNat, h⟩ with cosT := c, sinT := sn })) := by
  simp only [execFdnSetrot]
  rw [withInst_ok h]

theorem execFdnSetdamp_ok (h : i.toNat < P.nFDN) (a : F32) :
    execFdnSetdamp i a s = .next (respond (commandWord (.fdnSetdamp i a)) []
      (s.setFdn ⟨i.toNat, h⟩ { s.fdnAt ⟨i.toNat, h⟩ with
        dampA := a, dampB := fsub (s.draws 0) fOne a }).nextDraw) := by
  simp only [execFdnSetdamp]
  rw [withInst_ok h]

theorem execFdnSetgain_ok (h : i.toNat < P.nFDN) (g0 g1 g2 g3 w0 w1 w2 w3 : F32) :
    execFdnSetgain i g0 g1 g2 g3 w0 w1 w2 w3 s =
      .next (respond (commandWord (.fdnSetgain i g0 g1 g2 g3 w0 w1 w2 w3)) []
        (s.setFdn ⟨i.toNat, h⟩ { s.fdnAt ⟨i.toNat, h⟩ with
          inGain := #v[g0, g1, g2, g3], outW := #v[w0, w1, w2, w3] })) := by
  simp only [execFdnSetgain]
  rw [withInst_ok h]

/-- Line `k` of a network whose lines are RB instances (R270). -/
def FdnInst.lineAt (f : FdnInst) (h : f.Inv P) (k : Fin 4) : Fin P.nRB := ⟨f.line[k].toNat, h k⟩

/-- The four lines of a network whose lines are RB instances. -/
def FdnInst.lines (f : FdnInst) (h : f.Inv P) : Vector (Fin P.nRB) 4 :=
  #v[f.lineAt h 0, f.lineAt h 1, f.lineAt h 2, f.lineAt h 3]

theorem lineInst_ok {f : FdnInst} (h : f.Inv P) (k : Fin 4) : lineInst f k = .ok (f.lineAt h k) := by
  unfold lineInst
  rw [dif_pos (h k)]
  rfl

theorem lineInsts_ok {f : FdnInst} (h : f.Inv P) : lineInsts f = .ok (f.lines h) := by
  simp [lineInsts, lineInst_ok h, FdnInst.lines, bind, Except.bind, pure, Except.pure]

theorem linesValid_iff {l : Vector (Fin P.nRB) 4} :
    linesValid s l = true ↔ ∀ k : Fin 4, (s.rbAt l[k]).valid = true := by
  constructor
  · intro h k
    simp only [linesValid, Bool.and_eq_true] at h
    obtain ⟨⟨⟨h0, h1⟩, h2⟩, h3⟩ := h
    fin_cases k <;> assumption
  · intro h
    simp only [linesValid, Bool.and_eq_true]
    exact ⟨⟨⟨h 0, h 1⟩, h 2⟩, h 3⟩

/-- The four taps of valid lines (R278 step (1)). -/
def tapsOf (s : State P) (f : FdnInst) (l : Vector (Fin P.nRB) 4) : Vector F32 4 :=
  #v[(s.rbAt l[0]).delayed f.len[0], (s.rbAt l[1]).delayed f.len[1],
     (s.rbAt l[2]).delayed f.len[2], (s.rbAt l[3]).delayed f.len[3]]

theorem readTaps_ok (hi : ∀ j, (s.rbAt j).Inv P) {l : Vector (Fin P.nRB) 4}
    (hv : ∀ k : Fin 4, (s.rbAt l[k]).valid = true) (f : FdnInst) :
    readTaps s f l = .ok (tapsOf s f l) := by
  have h0 := ringReadInt_delayed (hi l[0]) (hv 0) f.len[0]
  have h1 := ringReadInt_delayed (hi l[1]) (hv 1) f.len[1]
  have h2 := ringReadInt_delayed (hi l[2]) (hv 2) f.len[2]
  have h3 := ringReadInt_delayed (hi l[3]) (hv 3) f.len[3]
  simp [readTaps, h0, h1, h2, h3, tapsOf, bind, Except.bind, pure, Except.pure]

/-- Instance `j` of the state with a value written to it (R135). -/
def State.writeTo (s : State P) (j : Fin P.nRB) (v : F32) : State P :=
  s.setRb j ((s.rbAt j).written v)

theorem State.rbAt_setRb (s : State P) (j k : Fin P.nRB) (x : RbInst) :
    (s.setRb j x).rbAt k = if j = k then x else s.rbAt k := by
  unfold State.rbAt State.setRb
  rw [Vector.getElem_set]
  simp [Fin.ext_iff]

theorem State.writeTo_rbAt (s : State P) (j k : Fin P.nRB) (v : F32) :
    (s.writeTo j v).rbAt k = if j = k then (s.rbAt j).written v else s.rbAt k :=
  s.rbAt_setRb j k _

theorem State.writeTo_valid (s : State P) (j k : Fin P.nRB) (v : F32) :
    ((s.writeTo j v).rbAt k).valid = (s.rbAt k).valid := by
  rw [State.writeTo_rbAt]
  split
  · rename_i h; subst h; rfl
  · rfl

theorem State.writeTo_inv {j : Fin P.nRB} (hi : ∀ k, (s.rbAt k).Inv P)
    (hv : (s.rbAt j).valid = true) (v : F32) (k : Fin P.nRB) :
    ((s.writeTo j v).rbAt k).Inv P := by
  rw [State.writeTo_rbAt]
  split
  · exact (hi j).written hv v
  · exact hi k

/-- The state after the four writes, in line order (R278 step (5)). -/
def State.writeFour (s : State P) (l : Vector (Fin P.nRB) 4) (x : Vector F32 4) : State P :=
  (((s.writeTo l[0] x[0]).writeTo l[1] x[1]).writeTo l[2] x[2]).writeTo l[3] x[3]

theorem writeLines_ok (hi : ∀ j, (s.rbAt j).Inv P) {l : Vector (Fin P.nRB) 4}
    (hv : ∀ k : Fin 4, (s.rbAt l[k]).valid = true) (x : Vector F32 4) :
    writeLines s l x = .ok (s.writeFour l x) := by
  have v0 : (s.rbAt l[0]).valid = true := hv 0
  have v1 : (s.rbAt l[1]).valid = true := hv 1
  have v2 : (s.rbAt l[2]).valid = true := hv 2
  have v3 : (s.rbAt l[3]).valid = true := hv 3
  have i1 := State.writeTo_inv hi v0 x[0]
  have v1' : ((s.writeTo l[0] x[0]).rbAt l[1]).valid = true := by rw [State.writeTo_valid]; exact v1
  have i2 := State.writeTo_inv i1 v1' x[1]
  have v2' : (((s.writeTo l[0] x[0]).writeTo l[1] x[1]).rbAt l[2]).valid = true := by
    rw [State.writeTo_valid, State.writeTo_valid]; exact v2
  have i3 := State.writeTo_inv i2 v2' x[2]
  have v3' : ((((s.writeTo l[0] x[0]).writeTo l[1] x[1]).writeTo l[2] x[2]).rbAt l[3]).valid
      = true := by
    rw [State.writeTo_valid, State.writeTo_valid, State.writeTo_valid]; exact v3
  have w0 : ringWriteAt s l[0] x[0] = .ok (s.writeTo l[0] x[0]) := ringWriteAt_ok (hi _) v0 _
  have w1 : ringWriteAt (s.writeTo l[0] x[0]) l[1] x[1] =
      .ok ((s.writeTo l[0] x[0]).writeTo l[1] x[1]) := ringWriteAt_ok (i1 _) v1' _
  have w2 : ringWriteAt ((s.writeTo l[0] x[0]).writeTo l[1] x[1]) l[2] x[2] =
      .ok (((s.writeTo l[0] x[0]).writeTo l[1] x[1]).writeTo l[2] x[2]) :=
    ringWriteAt_ok (i2 _) v2' _
  have w3 : ringWriteAt (((s.writeTo l[0] x[0]).writeTo l[1] x[1]).writeTo l[2] x[2]) l[3] x[3] =
      .ok (s.writeFour l x) := ringWriteAt_ok (i3 _) v3' _
  unfold writeLines
  simp only [bind, Except.bind]
  rw [w0]
  simp only
  rw [w1]
  simp only
  rw [w2]
  exact w3

theorem execFdnStep_ok (h : i.toNat < P.nFDN) (hi : ∀ j, (s.rbAt j).Inv P)
    (hf : (s.fdnAt ⟨i.toNat, h⟩).Inv P) (hb : (s.fdnAt ⟨i.toNat, h⟩).bound = true)
    (hv : ∀ k : Fin 4, (s.rbAt ((s.fdnAt ⟨i.toNat, h⟩).lines hf)[k]).valid = true)
    (x d m : F32) :
    let f := s.fdnAt ⟨i.toNat, h⟩
    let t := tapsOf s f (f.lines hf)
    let g := fdnAdvance s.draws d f t
    execFdnStep i x d m s = .next (respond (commandWord (.fdnStep i x d m))
      [mixOut (drawsFrom s.draws 55) (wetSum s.draws f t) x m]
      (((((s.writeFour (f.lines hf) (lineInputs s.draws f x g.fb)).setFdn ⟨i.toNat, h⟩ g).flagIf
        (tapsBeyond s f (f.lines hf)) .fDelay).flagIf (gainOutOfRange d) .fGain).nextDraw)) := by
  simp only [execFdnStep]
  rw [withInst_ok h, if_pos hb, lineInsts_ok hf]
  simp only [bind, Except.bind]
  rw [if_pos (linesValid_iff.2 hv), readTaps_ok hi hv]
  simp only
  rw [writeLines_ok hi hv]
  rfl

theorem execFdnStep_unbound (h : i.toNat < P.nFDN)
    (hb : (s.fdnAt ⟨i.toNat, h⟩).bound = false) (x d m : F32) :
    execFdnStep i x d m s = .next (refuse (commandWord (.fdnStep i x d m)) .eNobuf s) := by
  simp only [execFdnStep]
  rw [withInst_ok h, if_neg (by simp [hb])]

theorem execFdnStep_invalid (h : i.toNat < P.nFDN) (hf : (s.fdnAt ⟨i.toNat, h⟩).Inv P)
    (hb : (s.fdnAt ⟨i.toNat, h⟩).bound = true)
    (hv : ¬ ∀ k : Fin 4, (s.rbAt ((s.fdnAt ⟨i.toNat, h⟩).lines hf)[k]).valid = true)
    (x d m : F32) :
    execFdnStep i x d m s = .next (refuse (commandWord (.fdnStep i x d m)) .eNobuf s) := by
  simp only [execFdnStep]
  rw [withInst_ok h, if_pos hb, lineInsts_ok hf]
  simp only [bind, Except.bind]
  rw [if_neg (by rw [linesValid_iff]; exact hv)]
  rfl

end Machine
end Sys2Proof
end

