-- ==== Sys2Proof/Laws/Answers.lean ====
section
/-! SUPPORT. The shared operations in the words of Safety.lean: what a refusal is, what a write and a
read of a valid buffer are by arithmetic, which bits a flag adds. -/

namespace Sys2Proof
namespace Machine

variable {P : Params}

variable {s : State P}

/-! ## Flags -/

theorem State.flagIf_status_raised (s : State P) (c : Bool) (f : Flag) :
    (s.flagIf c f).status = s.status ||| raised c f := by
  cases c <;> simp [raised]

theorem State.hasFlag_eq (s : State P) (f : Flag) :
    s.hasFlag f = decide (s.status &&& f.mask ≠ 0) := rfl

/-- `F_CMD` is bit 4. -/
theorem State.hasFlag_fCmd (s : State P) : s.hasFlag .fCmd = s.status.getLsbD 4 := by
  unfold State.hasFlag
  generalize s.status = x
  revert x
  decide

/-! ## Answers -/

theorem respond_answered (i : Instr) (l : List Word) (s t : State P) (h : t.rspOut = s.rspOut) :
    Answered i l s (respond (commandWord i) l t) := by
  unfold Answered
  rw [respond_rspOut, h]

/-- A refusal does what R324 says and nothing else. -/
theorem refuse_refusedAs (w : Word) (e : CmdError) (s : State P) : RefusedAs w e s (refuse w e s) where
  frame := by constructor <;> simp
  flag := by simp [Flag.mask]
  first := by
    intro h
    rw [← State.hasFlag_fCmd] at h
    simp [h]
  later := by
    intro h
    rw [← State.hasFlag_fCmd] at h
    simp [h]
  answer := by simp [refusedPacket, headerWord]

/-! ## Buffers by arithmetic -/

/-- A read of a valid buffer is the sample at that delay (R134). -/
theorem RbInst.delayed_eq {b : RbInst} (h : b.Inv P) (hv : b.valid = true) (d : Word) :
    b.delayed d = b.sampleAt d := by
  unfold RbInst.delayed RbInst.sampleAt slotOf
  rw [h.mask_mod hv, BitVec.toNat_sub]
  congr 2
  have := d.isLt
  omega

theorem RbInst.interpolated_eq {b : RbInst} (h : b.Inv P) (hv : b.valid = true) (q : Nat → Word)
    (n : Word) (f : F32) (p : Policy) : b.interpolated q n f p = b.readAt q n f p := by
  cases p <;> simp [RbInst.interpolated, RbInst.readAt, RbInst.delayed_eq h hv]

theorem RbInst.Inv.capacity_pos {b : RbInst} (h : b.Inv P) (hv : b.valid = true) :
    0 < b.capacity.toNat := by
  obtain ⟨k, -, hc, -⟩ := h.1 hv
  rw [hc]; exact Nat.two_pow_pos k

/-- The capacity of a valid buffer divides the number of words. -/
theorem RbInst.Inv.capacity_dvd {b : RbInst} (h : b.Inv P) (hv : b.valid = true) :
    b.capacity.toNat ∣ 2 ^ 32 := by
  obtain ⟨k, hk, hc, -⟩ := h.1 hv
  rw [hc]
  refine Nat.pow_dvd_pow 2 ?_
  have := P.capLog2Max_bound
  omega

/-- `rb_write` of a valid buffer (R135). -/
theorem RbInst.wroteTo {b : RbInst} (h : b.Inv P) (hv : b.valid = true) (v : F32) :
    WroteTo b (b.written v) v where
  valid := rfl
  capacity := rfl
  wrapMask := rfl
  index := by
    have hm := h.mask_mod hv (b.writeIndex + 1)
    have hd := h.capacity_dvd hv
    show ((b.writeIndex + 1) &&& b.wrapMask).toNat = _
    rw [hm, BitVec.toNat_add]
    exact Nat.mod_mod_of_dvd _ hd
  stored := by
    show Memory.read (Memory.write _ _ _) _ = v
    rw [Memory.read_write _ _ _ h.2.2.1, if_pos rfl]
  others := by
    intro k hk
    show Memory.read (Memory.write _ _ _) _ = _
    rw [Memory.read_write _ _ _ h.2.2.1, if_neg hk]

/-- `rb_write` on an instance of the state. -/
theorem State.wroteAt {j : Fin P.nRB} (h : (s.rbAt j).Inv P) (hv : (s.rbAt j).valid = true)
    (v : F32) : WroteAt j v s (s.writeTo j v) where
  wrote := by
    rw [State.writeTo_rbAt, if_pos rfl]
    exact RbInst.wroteTo h hv v
  rest := by
    intro k hk
    rw [State.writeTo_rbAt, if_neg (Ne.symm hk)]
  frame := by constructor <;> simp [State.writeTo]

end Machine
end Sys2Proof
end

