-- ==== Sys2Proof/Laws/Decode.lean ====
section
/-! SUPPORT. Fields of a command word and what each piece of the decoder answers (30_encoding.md
R90, R94, R95). -/

namespace Sys2Proof

/-! ## Fields -/

/-- A packed command word as a number. -/
theorem packWord_toNat (o i : BitVec 8) (v s : BitVec 4) (n : BitVec 8) :
    (packWord o i v s n).toNat =
      o.toNat * 2 ^ 24 + i.toNat * 2 ^ 16 + v.toNat * 2 ^ 12 + s.toNat * 2 ^ 8 + n.toNat := by
  have h : (packWord o i v s n).toNat = (o ++ i ++ v ++ s ++ n).toNat := rfl
  have := i.isLt; have := v.isLt; have := s.isLt; have := n.isLt
  rw [h, BitVec.toNat_append, BitVec.toNat_append, BitVec.toNat_append, BitVec.toNat_append,
    ← Nat.shiftLeft_add_eq_or_of_lt (by omega), ← Nat.shiftLeft_add_eq_or_of_lt (by omega),
    ← Nat.shiftLeft_add_eq_or_of_lt (by omega), ← Nat.shiftLeft_add_eq_or_of_lt (by omega)]
  simp only [Nat.shiftLeft_eq]
  omega

/-- A field of a word as a number. -/
theorem extractLsb'_toNat_div (w : Word) (lo len : Nat) :
    (w.extractLsb' lo len).toNat = w.toNat / 2 ^ lo % 2 ^ len := by
  rw [BitVec.extractLsb'_toNat, Nat.shiftRight_eq_div_pow]

@[simp] theorem opcOf_packWord (o i : BitVec 8) (v s : BitVec 4) (n : BitVec 8) :
    opcOf (packWord o i v s n) = o := by
  have := o.isLt; have := i.isLt; have := v.isLt; have := s.isLt; have := n.isLt
  apply BitVec.eq_of_toNat_eq
  rw [opcOf, extractLsb'_toNat_div, packWord_toNat]
  omega

@[simp] theorem instOf_packWord (o i : BitVec 8) (v s : BitVec 4) (n : BitVec 8) :
    instOf (packWord o i v s n) = i := by
  have := o.isLt; have := i.isLt; have := v.isLt; have := s.isLt; have := n.isLt
  apply BitVec.eq_of_toNat_eq
  rw [instOf, extractLsb'_toNat_div, packWord_toNat]
  omega

@[simp] theorem varOf_packWord (o i : BitVec 8) (v s : BitVec 4) (n : BitVec 8) :
    varOf (packWord o i v s n) = v := by
  have := o.isLt; have := i.isLt; have := v.isLt; have := s.isLt; have := n.isLt
  apply BitVec.eq_of_toNat_eq
  rw [varOf, extractLsb'_toNat_div, packWord_toNat]
  omega

@[simp] theorem selOf_packWord (o i : BitVec 8) (v s : BitVec 4) (n : BitVec 8) :
    selOf (packWord o i v s n) = s := by
  have := o.isLt; have := i.isLt; have := v.isLt; have := s.isLt; have := n.isLt
  apply BitVec.eq_of_toNat_eq
  rw [selOf, extractLsb'_toNat_div, packWord_toNat]
  omega

@[simp] theorem nargField_packWord (o i : BitVec 8) (v s : BitVec 4) (n : BitVec 8) :
    nargField (packWord o i v s n) = n := by
  have := o.isLt; have := i.isLt; have := v.isLt; have := s.isLt; have := n.isLt
  apply BitVec.eq_of_toNat_eq
  rw [nargField, extractLsb'_toNat_div, packWord_toNat]
  omega

/-- A command word is its five fields: no bit of it is outside them. -/
theorem packWord_fields (w : Word) :
    packWord (opcOf w) (instOf w) (varOf w) (selOf w) (nargField w) = w := by
  have := w.isLt
  apply BitVec.eq_of_toNat_eq
  rw [packWord_toNat, opcOf, instOf, varOf, selOf, nargField]
  simp only [extractLsb'_toNat_div]
  omega

/-! ## The fields of an encoded command -/

@[simp] theorem opcOf_commandWord (i : Instr) : opcOf (commandWord i) = i.opcode.code := by
  simp [commandWord]

@[simp] theorem instOf_commandWord (i : Instr) : instOf (commandWord i) = i.inst := by
  simp [commandWord]

@[simp] theorem varOf_commandWord (i : Instr) : varOf (commandWord i) = i.var := by
  simp [commandWord]

@[simp] theorem selOf_commandWord (i : Instr) : selOf (commandWord i) = i.sel := by
  simp [commandWord]

@[simp] theorem nargField_commandWord (i : Instr) :
    nargField (commandWord i) = i.opcode.narg := by
  simp [commandWord]

/-! ## Enumerations: a code reads back as its name, and no other code as that name -/

@[simp] theorem Opcode.ofCode?_code (o : Opcode) : Opcode.ofCode? o.code = some o := by
  cases o <;> rfl

theorem Opcode.code_of_ofCode? {c : BitVec 8} {o : Opcode} (h : Opcode.ofCode? c = some o) :
    o.code = c := by
  simpa using List.find?_some h

theorem Opcode.ofCode?_none {c : BitVec 8} (h : Opcode.ofCode? c = none) (o : Opcode) :
    o.code ≠ c := by
  have := List.find?_eq_none.1 h o (by cases o <;> simp [Opcode.all])
  simpa using this

@[simp] theorem Policy.ofField?_code (p : Policy) : Policy.ofField? p.code = some p := by
  cases p <;> rfl

@[simp] theorem ApfVar.ofField?_code (v : ApfVar) : ApfVar.ofField? v.code = some v := by
  cases v <;> rfl

@[simp] theorem Wave.ofField?_code (v : Wave) : Wave.ofField? v.code = some v := by
  cases v <;> rfl

@[simp] theorem Shape.ofField?_code (v : Shape) : Shape.ofField? v.code = some v := by
  cases v <;> rfl

@[simp] theorem SmVar.ofField?_code (v : SmVar) : SmVar.ofField? v.code = some v := by
  cases v <;> rfl

@[simp] theorem Csr.ofField?_code (v : Csr) : Csr.ofField? v.code = some v := by
  cases v <;> rfl

theorem Policy.code_of_ofField? {x : BitVec 4} {p : Policy} (h : Policy.ofField? x = some p) :
    p.code = x := by
  simpa using List.find?_some h

theorem ApfVar.code_of_ofField? {x : BitVec 4} {v : ApfVar} (h : ApfVar.ofField? x = some v) :
    v.code = x := by
  simpa using List.find?_some h

theorem Wave.code_of_ofField? {x : BitVec 4} {v : Wave} (h : Wave.ofField? x = some v) :
    v.code = x := by
  simpa using List.find?_some h

theorem Shape.code_of_ofField? {x : BitVec 4} {v : Shape} (h : Shape.ofField? x = some v) :
    v.code = x := by
  simpa using List.find?_some h

theorem SmVar.code_of_ofField? {x : BitVec 4} {v : SmVar} (h : SmVar.ofField? x = some v) :
    v.code = x := by
  simpa using List.find?_some h

theorem Csr.code_of_ofField? {x : BitVec 4} {v : Csr} (h : Csr.ofField? x = some v) :
    v.code = x := by
  simpa using List.find?_some h

@[simp] theorem zeroField?_zero : zeroField? 0 = some () := rfl

theorem eq_zero_of_zeroField? {x : BitVec 4} {u : Unit} (h : zeroField? x = some u) : x = 0 := by
  unfold zeroField? at h
  split at h
  · assumption
  · exact absurd h (by simp)

end Sys2Proof
end

