-- ==== Sys2Proof/Laws/Float.lean ====
section
/-! SUPPORT. Binary32 words as sign and magnitude; NaNs; and that rounding an exact value gives it
back (00_scope.md R12 to R14). -/

namespace Sys2Proof
namespace Machine

/-! ## Sign and magnitude -/

theorem signBit_eq (x : F32) : signBit x = decide (2 ^ 31 ≤ x.toNat) := by
  have h : signBit x = x.msb := by simp [signBit, BitVec.msb_eq_getLsbD_last]
  rw [h, BitVec.msb_eq_decide]

theorem magBits_lt (x : F32) : magBits x < 2 ^ 31 := Nat.mod_lt _ (by decide)

theorem magBits_eq (x : F32) : magBits x = expField x * 2 ^ 23 + fracField x := by
  unfold magBits expField fracField magBits
  omega

theorem fracField_lt (x : F32) : fracField x < 2 ^ 23 := Nat.mod_lt _ (by decide)

theorem withSign_toNat (s : Bool) {m : Nat} (h : m < 2 ^ 31) :
    (withSign s m).toNat = (if s then 2 ^ 31 + m else m) := by
  unfold withSign
  rw [BitVec.toNat_ofNat]
  split <;> omega

@[simp] theorem signBit_withSign (s : Bool) {m : Nat} (h : m < 2 ^ 31) :
    signBit (withSign s m) = s := by
  rw [signBit_eq, withSign_toNat s h]
  cases s <;> simp; omega

@[simp] theorem magBits_withSign (s : Bool) {m : Nat} (h : m < 2 ^ 31) :
    magBits (withSign s m) = m := by
  unfold magBits
  rw [withSign_toNat s h]
  cases s <;> simp <;> omega

/-- A word is its sign and its magnitude. -/
theorem withSign_magBits (x : F32) : withSign (signBit x) (magBits x) = x := by
  apply BitVec.eq_of_toNat_eq
  rw [withSign_toNat _ (magBits_lt x), signBit_eq]
  unfold magBits
  have := x.isLt
  by_cases h : 2 ^ 31 ≤ x.toNat
  · simp only [h, decide_true, if_true]; omega
  · simp only [h, decide_false]
    simp only [Bool.false_eq_true, if_false]; omega

theorem eq_of_sign_mag {x y : F32} (hs : signBit x = signBit y) (hm : magBits x = magBits y) :
    x = y := by
  rw [← withSign_magBits x, ← withSign_magBits y, hs, hm]

/-! ## Classes -/

theorem isFinite_iff {x : F32} : isFinite x = true ↔ magBits x < 0x7F800000 := by
  simp [isFinite]

theorem not_isNaN_of_isFinite {x : F32} (h : isFinite x = true) : isNaN x = false := by
  have := isFinite_iff.1 h
  simp only [isNaN, decide_eq_false_iff_not]; omega

theorem not_isInf_of_isFinite {x : F32} (h : isFinite x = true) : isInf x = false := by
  have := isFinite_iff.1 h
  simp only [isInf, decide_eq_false_iff_not]; omega

/-- A word is a NaN, an infinity or finite. -/
theorem float_cases (x : F32) : isNaN x = true ∨ isInf x = true ∨ isFinite x = true := by
  simp only [isNaN, isInf, isFinite, decide_eq_true_eq]; omega

theorem expField_lt_of_isFinite {x : F32} (h : isFinite x = true) : expField x < 255 := by
  have h1 := isFinite_iff.1 h
  have h2 := magBits_eq x
  omega

/-! ## NaNs (R13, U1) -/

theorem nan_fraction_lt (q : Word) :
    0x7F800000 + (if fracField q = 0 then 0x400000 else fracField q) < 2 ^ 31 := by
  have := fracField_lt q
  split <;> omega

@[simp] theorem isNaN_nanOf (q : Word) : isNaN (nanOf q) = true := by
  unfold isNaN nanOf
  rw [magBits_withSign _ (nan_fraction_lt q), decide_eq_true_eq]
  split <;> omega

/-- Every NaN word is the one its own word draws: no NaN is ruled out. -/
theorem nanOf_of_isNaN {x : F32} (h : isNaN x = true) : nanOf x = x := by
  have hx : 0x7F800000 < magBits x := by simpa [isNaN] using h
  have hm := magBits_eq x
  have hl := magBits_lt x
  have hf := fracField_lt x
  have hne : fracField x ≠ 0 := by omega
  unfold nanOf
  rw [if_neg hne]
  conv_rhs => rw [← withSign_magBits x]
  congr 1
  omega

@[simp] theorem fadd_nan_left (q : Word) {x : F32} (y : F32) (h : isNaN x = true) :
    fadd q x y = nanOf q := by simp [fadd, h]

@[simp] theorem fadd_nan_right (q : Word) (x : F32) {y : F32} (h : isNaN y = true) :
    fadd q x y = nanOf q := by simp [fadd, h]

@[simp] theorem fmul_nan_left (q : Word) {x : F32} (y : F32) (h : isNaN x = true) :
    fmul q x y = nanOf q := by simp [fmul, h]

@[simp] theorem fmul_nan_right (q : Word) (x : F32) {y : F32} (h : isNaN y = true) :
    fmul q x y = nanOf q := by simp [fmul, h]

@[simp] theorem fdiv_nan_left (q : Word) {x : F32} (y : F32) (h : isNaN x = true) :
    fdiv q x y = nanOf q := by simp [fdiv, h]

@[simp] theorem fdiv_nan_right (q : Word) (x : F32) {y : F32} (h : isNaN y = true) :
    fdiv q x y = nanOf q := by simp [fdiv, h]

theorem signBit_fneg (x : F32) : signBit (fneg x) = !signBit x := by
  simp [signBit, fneg]

theorem magBits_fneg (x : F32) : magBits (fneg x) = magBits x := by
  unfold magBits fneg
  rw [BitVec.toNat_xor, Nat.xor_mod_two_pow]
  simp

@[simp] theorem isNaN_fneg (x : F32) : isNaN (fneg x) = isNaN x := by
  simp [isNaN, magBits_fneg]

@[simp] theorem isFinite_fneg (x : F32) : isFinite (fneg x) = isFinite x := by
  simp [isFinite, magBits_fneg]

@[simp] theorem isInf_fneg (x : F32) : isInf (fneg x) = isInf x := by
  simp [isInf, magBits_fneg]

/-! ## Rounding -/

theorem roundUnits_mag_le (n d : Nat) :
    min ((if n / d < 2 ^ 24 then 0 else Nat.log2 (n / d) - 23) * 2 ^ 23 +
      roundDiv n (d * 2 ^ (if n / d < 2 ^ 24 then 0 else Nat.log2 (n / d) - 23))) 0x7F800000 < 2 ^ 31 := by
  omega

/-- Rounding keeps the sign. -/
@[simp] theorem signBit_roundUnits (neg : Bool) (n d : Nat) :
    signBit (roundUnits neg n d) = neg := by
  unfold roundUnits
  exact signBit_withSign _ (roundUnits_mag_le n d)

/-- A rounded value is never a NaN. -/
@[simp] theorem isNaN_roundUnits (neg : Bool) (n d : Nat) : isNaN (roundUnits neg n d) = false := by
  unfold roundUnits isNaN
  simp only
  rw [magBits_withSign _ (roundUnits_mag_le n d), decide_eq_false_iff_not]
  omega

/-- A quotient without remainder rounds to itself. -/
theorem roundDiv_mul (a : Nat) {d : Nat} (hd : 0 < d) : roundDiv (a * d) d = a := by
  unfold roundDiv
  rw [Nat.mul_mod_left, Nat.mul_div_cancel _ hd, if_pos (by omega)]

theorem ulps_lt_of_expField_le {x : F32} (h : expField x ≤ 1) : ulps x < 2 ^ 24 := by
  have := fracField_lt x
  unfold ulps
  split
  · omega
  · rw [show expField x - 1 = 0 by omega]; omega

/-- The bits `roundUnits` puts below the sign. -/
theorem roundUnits_eq (neg : Bool) {n d m k : Nat} (hk : k = if n / d < 2 ^ 24 then 0 else Nat.log2 (n / d) - 23)
    (hm : m = min (k * 2 ^ 23 + roundDiv n (d * 2 ^ k)) 0x7F800000) :
    roundUnits neg n d = withSign neg m := by
  subst hm hk; rfl

theorem scaled_ge {u f e : Nat} (hu : u = (2 ^ 23 + f) * 2 ^ e) : 2 ^ (23 + e) ≤ u := by
  rw [hu, Nat.pow_add]; exact Nat.mul_le_mul_right _ (Nat.le_add_right _ _)

theorem scaled_lt {u f e : Nat} (hf : f < 2 ^ 23) (hu : u = (2 ^ 23 + f) * 2 ^ e) :
    u < 2 ^ (24 + e) := by
  rw [hu, Nat.pow_add]; exact Nat.mul_lt_mul_of_pos_right (by omega) (Nat.two_pow_pos _)

/-- The number of bits below the significand of a normal value. -/
theorem scaled_log2 {u f e : Nat} (hf : f < 2 ^ 23) (hu : u = (2 ^ 23 + f) * 2 ^ e) :
    Nat.log2 u - 23 = e := by
  have h1 := scaled_ge hu
  have h2 := scaled_lt hf hu
  have hne : u ≠ 0 := by have := Nat.two_pow_pos (23 + e); omega
  have : Nat.log2 u = 23 + e := by
    rw [Nat.log2_eq_iff hne]
    refine ⟨h1, ?_⟩
    rw [show 23 + e + 1 = 24 + e by omega]
    exact h2
  omega

theorem scaled_large {u f e : Nat} (he : e ≠ 0) (hu : u = (2 ^ 23 + f) * 2 ^ e) :
    ¬ u < 2 ^ 24 := by
  have h1 := scaled_ge hu
  have : 2 ^ 24 ≤ 2 ^ (23 + e) := Nat.pow_le_pow_right (by decide) (by omega)
  omega

theorem roundUnits_ulps_small {x : F32} (h : isFinite x = true) {c : Nat} (hc : 0 < c)
    (he : expField x ≤ 1) : roundUnits (signBit x) (ulps x * c) c = x := by
  have hfin := isFinite_iff.1 h
  have hmag := magBits_eq x
  have hf := fracField_lt x
  have hlt := ulps_lt_of_expField_le he
  have hu : ulps x = magBits x := by
    unfold ulps
    split
    · omega
    · rw [show expField x - 1 = 0 by omega]; omega
  refine (roundUnits_eq (signBit x) (m := magBits x) (k := 0) ?_ ?_).trans (withSign_magBits x)
  · rw [Nat.mul_div_cancel _ hc, if_pos hlt]
  · have : roundDiv (ulps x * c) (c * 2 ^ 0) = ulps x := by
      rw [Nat.pow_zero, Nat.mul_one]; exact roundDiv_mul _ hc
    rw [this]
    omega

theorem roundUnits_ulps_normal {x : F32} (h : isFinite x = true) {c : Nat} (hc : 0 < c)
    (he : ¬ expField x ≤ 1) : roundUnits (signBit x) (ulps x * c) c = x := by
  have hfin := isFinite_iff.1 h
  have hmag := magBits_eq x
  have hf := fracField_lt x
  have hu : ulps x = (2 ^ 23 + fracField x) * 2 ^ (expField x - 1) := by
    unfold ulps; rw [if_neg (by omega)]
  have hge := scaled_large (by omega) hu
  have hlog := scaled_log2 hf hu
  refine (roundUnits_eq (signBit x) (m := magBits x) (k := expField x - 1) ?_ ?_).trans (withSign_magBits x)
  · rw [Nat.mul_div_cancel _ hc, if_neg hge, hlog]
  · have hr : ulps x * c = (2 ^ 23 + fracField x) * (c * 2 ^ (expField x - 1)) := by
      rw [hu, Nat.mul_assoc, Nat.mul_comm c]
    rw [hr, roundDiv_mul _ (Nat.mul_pos hc (Nat.two_pow_pos _))]
    clear hu hge hlog hr
    omega

/-- Rounding a finite value gives it back: every operation whose exact result is a binary32 is
exact. -/
theorem roundUnits_ulps {x : F32} (h : isFinite x = true) {c : Nat} (hc : 0 < c) :
    roundUnits (signBit x) (ulps x * c) c = x := by
  by_cases he : expField x ≤ 1
  · exact roundUnits_ulps_small h hc he
  · exact roundUnits_ulps_normal h hc he

/-- A zero magnitude rounds to the zero of its sign. -/
theorem roundUnits_zero (neg : Bool) {d : Nat} (hd : 0 < d) :
    roundUnits neg 0 d = withSign neg 0 := by
  simp [roundUnits, roundDiv, hd]

/-- A finite value is zero exactly when its magnitude is no unit. -/
theorem ulps_eq_zero {x : F32} : ulps x = 0 ↔ isZero x = true := by
  have hmag := magBits_eq x
  unfold ulps isZero
  rw [decide_eq_true_eq]
  split
  · omega
  · have : 0 < (2 ^ 23 + fracField x) * 2 ^ (expField x - 1) :=
      Nat.mul_pos (by omega) (Nat.two_pow_pos _)
    omega

/-! ## Comparisons -/

theorem feq_iff {x y : F32} :
    feq x y = true ↔ isNaN x = false ∧ isNaN y = false ∧ orderKey x = orderKey y := by
  simp [feq, and_assoc]

theorem feq_refl {x : F32} (h : isNaN x = false) : feq x x = true := feq_iff.2 ⟨h, h, rfl⟩

end Machine
end Sys2Proof
end

