-- ==== Sys2Proof/Laws/Design.lean ====
section
/-! SUPPORT. The free words of NaNs show in a NaN's word alone: each primitive takes equal numbers to
equal numbers whatever the words are (00_scope.md R13), so that normalising a sextuple does not show
which NaNs it held (41_filter_designer.md R186, R187). -/

namespace Sys2Proof
namespace Machine

@[simp] theorem SameNumber.refl (x : F32) : SameNumber x x := .inl rfl

theorem fadd_draw (q r : Word) (x y : F32) : SameNumber (fadd q x y) (fadd r x y) := by
  unfold fadd SameNumber
  split_ifs <;> simp

theorem fmul_draw (q r : Word) (x y : F32) : SameNumber (fmul q x y) (fmul r x y) := by
  unfold fmul SameNumber
  dsimp only
  split_ifs <;> simp

theorem fdiv_draw (q r : Word) (x y : F32) : SameNumber (fdiv q x y) (fdiv r x y) := by
  unfold fdiv SameNumber
  dsimp only
  split_ifs <;> simp

variable {x x' y y' : F32}

theorem SameNumber.neg (h : SameNumber x x') : SameNumber (fneg x) (fneg x') := by
  rcases h with rfl | ⟨h, h'⟩
  · exact .refl _
  · exact .inr ⟨by simpa using h, by simpa using h'⟩

theorem SameNumber.add (q r : Word) (hx : SameNumber x x') (hy : SameNumber y y') :
    SameNumber (fadd q x y) (fadd r x' y') := by
  rcases hx with rfl | ⟨h, h'⟩
  · rcases hy with rfl | ⟨h, h'⟩
    · exact fadd_draw ..
    · exact .inr ⟨by simp [h], by simp [h']⟩
  · exact .inr ⟨by simp [h], by simp [h']⟩

theorem SameNumber.sub (q r : Word) (hx : SameNumber x x') (hy : SameNumber y y') :
    SameNumber (fsub q x y) (fsub r x' y') := hx.add q r hy.neg

theorem SameNumber.mul (q r : Word) (hx : SameNumber x x') (hy : SameNumber y y') :
    SameNumber (fmul q x y) (fmul r x' y') := by
  rcases hx with rfl | ⟨h, h'⟩
  · rcases hy with rfl | ⟨h, h'⟩
    · exact fmul_draw ..
    · exact .inr ⟨by simp [h], by simp [h']⟩
  · exact .inr ⟨by simp [h], by simp [h']⟩

theorem SameNumber.div (q r : Word) (hx : SameNumber x x') (hy : SameNumber y y') :
    SameNumber (fdiv q x y) (fdiv r x' y') := by
  rcases hx with rfl | ⟨h, h'⟩
  · rcases hy with rfl | ⟨h, h'⟩
    · exact fdiv_draw ..
    · exact .inr ⟨by simp [h], by simp [h']⟩
  · exact .inr ⟨by simp [h], by simp [h']⟩

/-- A quotient does not show which NaN an operand is. -/
theorem SameNumber.div_eq (q : Word) (hx : SameNumber x x') (hy : SameNumber y y') :
    fdiv q x y = fdiv q x' y' := by
  rcases hx with rfl | ⟨h, h'⟩
  · rcases hy with rfl | ⟨h, h'⟩
    · rfl
    · simp [h, h']
  · simp [h, h']

/-- The same sextuple but for which NaN a NaN is. -/
structure SameRaw (c c' : RawCoef) : Prop where
  n0 : SameNumber c.n0 c'.n0
  n1 : SameNumber c.n1 c'.n1
  n2 : SameNumber c.n2 c'.n2
  d0 : SameNumber c.d0 c'.d0
  d1 : SameNumber c.d1 c'.d1
  d2 : SameNumber c.d2 c'.d2

/-- Normalising does not show which NaNs a sextuple held (R186). -/
theorem normalizeCoefs_eq {c c' : RawCoef} (h : SameRaw c c') (r : Nat → Word) (f : FdInst) :
    normalizeCoefs r c f = normalizeCoefs r c' f := by
  unfold normalizeCoefs
  rw [h.n0.div_eq _ h.d0, h.n1.div_eq _ h.d0, h.n2.div_eq _ h.d0, h.d1.div_eq _ h.d0,
    h.d2.div_eq _ h.d0]

/-! ## The default formulas -/

theorem helperT_draw (q r : Nat → Word) (cs : F32) : SameNumber (helperT q cs) (helperT r cs) :=
  fadd_draw ..

theorem helperU_draw (q r : Nat → Word) (cs : F32) : SameNumber (helperU q cs) (helperU r cs) :=
  (SameNumber.refl _).sub _ _ (.refl _)

theorem helperAlpha_draw (q r : Nat → Word) (sn qual : F32) :
    SameNumber (helperAlpha q sn qual) (helperAlpha r sn qual) :=
  (SameNumber.refl _).div _ _ (fmul_draw ..)

theorem helperM_draw (q r : Nat → Word) (cs : F32) : SameNumber (helperM q cs) (helperM r cs) :=
  (fmul_draw ..).neg

theorem overD1_draw (q r : Nat → Word) (sn : F32) {t t' n0 n0' n1 n1' : F32} (ht : SameNumber t t')
    (h0 : SameNumber n0 n0') (h1 : SameNumber n1 n1') :
    SameRaw (overD1 q sn t n0 n1) (overD1 r sn t' n0' n1') where
  n0 := h0
  n1 := h1
  n2 := .refl _
  d0 := ht.add _ _ (.refl _)
  d1 := (SameNumber.refl _).sub _ _ ht
  d2 := .refl _

theorem overD2_draw (q r : Nat → Word) {a a' m m' n0 n0' n1 n1' n2 n2' : F32}
    (ha : SameNumber a a') (hm : SameNumber m m') (h0 : SameNumber n0 n0') (h1 : SameNumber n1 n1')
    (h2 : SameNumber n2 n2') : SameRaw (overD2 q a m n0 n1 n2) (overD2 r a' m' n0' n1' n2') where
  n0 := h0
  n1 := h1
  n2 := h2
  d0 := (SameNumber.refl _).add _ _ ha
  d1 := hm
  d2 := (SameNumber.refl _).sub _ _ ha

theorem half_draw (q q' : Word) {x x' : F32} (h : SameNumber x x') :
    SameNumber (fmul q x fHalf) (fmul q' x' fHalf) := h.mul _ _ (.refl _)

theorem rawLpf1_draw (q q' : Nat → Word) (sn cs qual : F32) :
    SameRaw (rawLpf1 q sn cs qual) (rawLpf1 q' sn cs qual) :=
  overD1_draw q q' _ (helperT_draw q q' cs) (.refl _) (.refl _)

theorem rawHpf1_draw (q q' : Nat → Word) (sn cs qual : F32) :
    SameRaw (rawHpf1 q sn cs qual) (rawHpf1 q' sn cs qual) :=
  overD1_draw q q' _ (helperT_draw q q' cs) (helperT_draw q q' cs) (helperT_draw q q' cs).neg

theorem rawLpf2_draw (q q' : Nat → Word) (sn cs qual : F32) :
    SameRaw (rawLpf2 q sn cs qual) (rawLpf2 q' sn cs qual) :=
  overD2_draw q q' (helperAlpha_draw q q' sn qual) (helperM_draw q q' cs) (half_draw _ _ (helperU_draw q q' cs))
    (helperU_draw q q' cs) (half_draw _ _ (helperU_draw q q' cs))

theorem rawHpf2_draw (q q' : Nat → Word) (sn cs qual : F32) :
    SameRaw (rawHpf2 q sn cs qual) (rawHpf2 q' sn cs qual) :=
  overD2_draw q q' (helperAlpha_draw q q' sn qual) (helperM_draw q q' cs) (half_draw _ _ (helperT_draw q q' cs))
    (helperT_draw q q' cs).neg (half_draw _ _ (helperT_draw q q' cs))

theorem rawApf1_draw (q q' : Nat → Word) (sn cs qual : F32) :
    SameRaw (rawApf1 q sn cs qual) (rawApf1 q' sn cs qual) :=
  overD1_draw q q' _ (helperT_draw q q' cs) ((SameNumber.refl _).sub _ _ (helperT_draw q q' cs))
    ((helperT_draw q q' cs).add _ _ (.refl _))

theorem rawApf2_draw (q q' : Nat → Word) (sn cs qual : F32) :
    SameRaw (rawApf2 q sn cs qual) (rawApf2 q' sn cs qual) :=
  overD2_draw q q' (helperAlpha_draw q q' sn qual) (helperM_draw q q' cs)
    ((SameNumber.refl _).sub _ _ (helperAlpha_draw q q' sn qual)) (helperM_draw q q' cs)
    ((SameNumber.refl _).add _ _ (helperAlpha_draw q q' sn qual))

theorem rawBpf_draw (q q' : Nat → Word) (sn cs qual : F32) :
    SameRaw (rawBpf q sn cs qual) (rawBpf q' sn cs qual) :=
  overD2_draw q q' (helperAlpha_draw q q' sn qual) (helperM_draw q q' cs) (helperAlpha_draw q q' sn qual)
    (.refl _) (helperAlpha_draw q q' sn qual).neg

/-- FD.COMPUTE of a shape with a formula normalises what the design gives (R176). -/
theorem fdComputeShape_formula {D : FdDesign} {shape : Shape} {raw : RawFormula}
    (h : formulaOf? D shape = some raw) (r : Nat → Word) (f : FdInst) :
    fdComputeShape D r shape f = normalizeCoefs r (raw f.sn f.cs f.q) f := by
  have hs : shape ≠ .flat := by
    intro e
    rw [e] at h
    cases h
  unfold fdComputeShape
  rw [if_neg hs, h]

/-- Two designs whose formulas for a shape differ at most in their NaNs compute the same. -/
theorem fdComputeShape_congr {D D' : FdDesign} {shape : Shape} {raw raw' : RawFormula}
    (h : formulaOf? D shape = some raw) (h' : formulaOf? D' shape = some raw')
    (hr : ∀ sn cs qual, SameRaw (raw sn cs qual) (raw' sn cs qual)) (r : Nat → Word) (f : FdInst) :
    fdComputeShape D r shape f = fdComputeShape D' r shape f := by
  rw [fdComputeShape_formula h, fdComputeShape_formula h', normalizeCoefs_eq (hr _ _ _)]

/-- FD.COMPUTE with the default formulas does not show the free words inside them, so it is the same
whatever `Config.designNaN` is (R187, U1; log 3). -/
theorem fdComputeShape_cookbookFrom (q q' r : Nat → Word) (shape : Shape) (f : FdInst) :
    fdComputeShape (cookbookFrom q) r shape f = fdComputeShape (cookbookFrom q') r shape f := by
  cases shape
  case lpf1 => exact fdComputeShape_congr rfl rfl (rawLpf1_draw q q') r f
  case hpf1 => exact fdComputeShape_congr rfl rfl (rawHpf1_draw q q') r f
  case lpf2 => exact fdComputeShape_congr rfl rfl (rawLpf2_draw q q') r f
  case hpf2 => exact fdComputeShape_congr rfl rfl (rawHpf2_draw q q') r f
  case apf1 => exact fdComputeShape_congr rfl rfl (rawApf1_draw q q') r f
  case apf2 => exact fdComputeShape_congr rfl rfl (rawApf2_draw q q') r f
  case bpf => exact fdComputeShape_congr rfl rfl (rawBpf_draw q q') r f
  all_goals simp [fdComputeShape, formulaOf?]

end Machine
end Sys2Proof
end

