-- ==== Sys2Proof/Laws/Inv.lean ====
section
/-! SUPPORT. Each update of the state keeps the invariant of Safety.lean under the condition it
needs. -/

namespace Sys2Proof
namespace Machine

variable {P : Params}

variable {s : State P}

/-- The invariant reads the buffers, the networks, the error record and the packet buffer alone. -/
theorem State.Inv.congr {t : State P} (h : s.Inv) (hrb : t.rb = s.rb) (hfdn : t.fdn = s.fdn)
    (hst : t.status &&& Flag.fCmd.mask = s.status &&& Flag.fCmd.mask) (hi : t.errInfo = s.errInfo)
    (hc : t.errCode = s.errCode) (hp : t.pkt = s.pkt) : t.Inv where
  rb := by intro i; rw [State.rbAt, hrb]; exact h.rb i
  fdn := by intro i; rw [State.fdnAt, hfdn]; exact h.fdn i
  err := by
    have hf : t.hasFlag .fCmd = s.hasFlag .fCmd := by unfold State.hasFlag; rw [hst]
    unfold ErrRecordInv
    rw [hf, hi, hc]
    exact h.err
  pkt := by rw [hp]; exact h.pkt

theorem State.Inv.setRb (h : s.Inv) (i : Fin P.nRB) {x : RbInst} (hx : x.Inv P) :
    (s.setRb i x).Inv where
  rb := by
    intro j
    rw [State.rbAt_setRb]
    split
    · exact hx
    · exact h.rb j
  fdn := h.fdn
  err := h.err
  pkt := h.pkt

theorem State.Inv.setFdn (h : s.Inv) (i : Fin P.nFDN) {x : FdnInst} (hx : x.Inv P) :
    (s.setFdn i x).Inv where
  rb := h.rb
  fdn := by
    intro j
    by_cases e : i = j
    · subst e; rw [State.setFdn_fdnAt_self]; exact hx
    · rw [State.setFdn_fdnAt_ne _ _ e]; exact h.fdn j
  err := h.err
  pkt := h.pkt

theorem State.Inv.setFd (h : s.Inv) (i : Fin P.nFD) (x : FdInst) : (s.setFd i x).Inv :=
  h.congr rfl rfl rfl rfl rfl rfl

theorem State.Inv.setOsc (h : s.Inv) (i : Fin P.nOSC) (x : OscInst) : (s.setOsc i x).Inv :=
  h.congr rfl rfl rfl rfl rfl rfl

theorem State.Inv.setSm (h : s.Inv) (i : Fin P.nSM) (x : SmInst) : (s.setSm i x).Inv :=
  h.congr rfl rfl rfl rfl rfl rfl

theorem State.Inv.setMode (h : s.Inv) (m : Mode) : (s.setMode m).Inv :=
  h.congr rfl rfl rfl rfl rfl rfl

theorem State.Inv.nextDraw (h : s.Inv) : s.nextDraw.Inv := h.congr rfl rfl rfl rfl rfl rfl

theorem State.Inv.respond (h : s.Inv) (w : Word) (l : List Word) : (respond w l s).Inv :=
  h.congr rfl rfl rfl rfl rfl rfl

theorem State.Inv.setCmdIn (h : s.Inv) (l : List Word) : (s.setCmdIn l).Inv :=
  h.congr rfl rfl rfl rfl rfl rfl

/-- A source-derived flag leaves `F_CMD` alone. -/
theorem State.Inv.flagIf (h : s.Inv) (c : Bool) {f : Flag} (hf : f ≠ .fCmd) :
    (s.flagIf c f).Inv := by
  refine h.congr rfl rfl ?_ rfl rfl rfl
  rw [State.flagIf_status_raised]
  generalize s.status = x
  revert x
  cases f <;> cases c <;> first | exact absurd rfl hf | decide

theorem State.Inv.setPkt (h : s.Inv) {p : PacketBuf} (hp : p.Inv) : (s.setPkt p).Inv where
  rb := h.rb
  fdn := h.fdn
  err := h.err
  pkt := hp

/-- After a refusal `F_CMD` is set, so the record may hold anything. -/
theorem State.Inv.refuse (h : s.Inv) (w : Word) (e : CmdError) : (refuse w e s).Inv where
  rb := by intro i; rw [refuse_rbAt]; exact h.rb i
  fdn := by intro i; rw [refuse_fdnAt]; exact h.fdn i
  err := by
    intro hf
    have : (Machine.refuse w e s).hasFlag .fCmd = true := by
      unfold State.hasFlag
      rw [refuse_status]
      generalize s.status = x
      revert x
      decide
    rw [this] at hf
    exact absurd hf (by decide)
  pkt := by rw [refuse_pkt]; exact h.pkt

end Machine
end Sys2Proof
end

