-- ==== Sys2Proof/Laws/PerInstr.lean ====
section
/-! SUPPORT. What holds of every instruction as syntax, one lemma per constructor: the five fields of
its command word are the ones it was made of, and its operand words are as many as NARG says
(30_encoding.md R90, R94). -/

namespace Sys2Proof
namespace Laws
namespace EncodedFields

/-- The command word carries the opcode, the instance, both modifiers and the operand count, and the
packet has that many operand words. -/
def Statement (i : Instr) : Prop :=
  (opcOf (commandWord i) = i.opcode.code ∧ instOf (commandWord i) = i.inst ∧
    varOf (commandWord i) = i.var ∧ selOf (commandWord i) = i.sel) ∧
  i.operands.length = nargOf (commandWord i)

theorem of_length {i : Instr} (h : i.operands.length = i.opcode.narg.toNat) : Statement i :=
  ⟨⟨opcOf_commandWord i, instOf_commandWord i, varOf_commandWord i, selOf_commandWord i⟩, by
    rw [nargOf, nargField_commandWord, h]⟩

theorem sysReset :
    Statement .sysReset := of_length rfl

theorem sysPrepare :
    Statement .sysPrepare := of_length rfl

theorem sysStart :
    Statement .sysStart := of_length rfl

theorem sysRdcsr (reg : Csr) :
    Statement (.sysRdcsr reg) := of_length rfl

theorem sysClrstatus (mask : Word) :
    Statement (.sysClrstatus mask) := of_length rfl

theorem rbCreate (i : Inst) (requestedLength : Word) :
    Statement (.rbCreate i requestedLength) := of_length rfl

theorem rbDestroy (i : Inst) :
    Statement (.rbDestroy i) := of_length rfl

theorem rbWrite (i : Inst) (sample : F32) :
    Statement (.rbWrite i sample) := of_length rfl

theorem rbReadi (i : Inst) (delay : Word) :
    Statement (.rbReadi i delay) := of_length rfl

theorem rbReadf (i : Inst) (policy : Policy) (delay : F32) :
    Statement (.rbReadf i policy delay) := of_length rfl

theorem fdSetparam (i : Inst) (cutoff sampleRate q gainDb : F32) :
    Statement (.fdSetparam i cutoff sampleRate q gainDb) := of_length rfl

theorem fdCompute (i : Inst) (shape : Shape) :
    Statement (.fdCompute i shape) := of_length rfl

theorem fdGetcoef (i : Inst) :
    Statement (.fdGetcoef i) := of_length rfl

theorem oscProcess (i : Inst) (wave : Wave) (frequency sampleRate phaseOffset : F32) :
    Statement (.oscProcess i wave frequency sampleRate phaseOffset) := of_length rfl

theorem smConfig (i : Inst) (smoothingTimeMs sampleRate : F32) :
    Statement (.smConfig i smoothingTimeMs sampleRate) := of_length rfl

theorem smProcess (i : Inst) (variant : SmVar) (target : F32) :
    Statement (.smProcess i variant target) := of_length rfl

theorem apfProcess (i : Inst) (variant : ApfVar) (policy : Policy) (input delay gain : F32) :
    Statement (.apfProcess i variant policy input delay gain) := of_length rfl

theorem combProcess (i : Inst) (policy : Policy) (dry delayTime feedbackGain mix : F32) :
    Statement (.combProcess i policy dry delayTime feedbackGain mix) := of_length rfl

theorem fdnBind (i : Inst) (rb0 rb1 rb2 rb3 : Word) :
    Statement (.fdnBind i rb0 rb1 rb2 rb3) := of_length rfl

theorem fdnSetlen (i : Inst) (len0 len1 len2 len3 : Word) :
    Statement (.fdnSetlen i len0 len1 len2 len3) := of_length rfl

theorem fdnSetrot (i : Inst) (cosT sinT : F32) :
    Statement (.fdnSetrot i cosT sinT) := of_length rfl

theorem fdnSetdamp (i : Inst) (dampA : F32) :
    Statement (.fdnSetdamp i dampA) := of_length rfl

theorem fdnSetgain (i : Inst) (in0 in1 in2 in3 w0 w1 w2 w3 : F32) :
    Statement (.fdnSetgain i in0 in1 in2 in3 w0 w1 w2 w3) := of_length rfl

theorem fdnStep (i : Inst) (input decay mix : F32) :
    Statement (.fdnStep i input decay mix) := of_length rfl

end EncodedFields
end Laws
end Sys2Proof
end

