-- ==== Sys2Proof/Laws/Receive.lean ====
section
/-! SUPPORT. What receiving comes to, once: the first packet of a stream, or the open packet with every
word in the buffer (30_encoding.md R91, R92); and what a step answers in each of its three cases. -/

namespace Sys2Proof
namespace Machine

variable {P : Params}

/-- The operand words kept when `ws` arrive after `args` (R91). -/
def keepOperands (args ws : List Word) : List Word := args ++ ws.take (keptOperands - args.length)

@[simp] theorem keepOperands_nil_right (args : List Word) : keepOperands args [] = args := by
  simp [keepOperands]

/-- One operand word arriving at an open packet. -/
theorem push_open (c : Word) (args : List Word) (got : Nat) (w : Word) :
    PacketBuf.push { cmd := some c, args := args, got := got } w =
      { cmd := some c, args := keepOperands args [w], got := got + 1 } := by
  by_cases h : args.length < keptOperands
  · have : keptOperands - args.length = (keptOperands - args.length - 1) + 1 := by omega
    simp only [PacketBuf.push, if_pos h, keepOperands]
    rw [this, List.take_succ_cons, List.take_nil]
  · have : keptOperands - args.length = 0 := by omega
    simp only [PacketBuf.push, if_neg h, keepOperands]
    rw [this]
    simp

theorem keepOperands_cons (args : List Word) (w : Word) (ws : List Word) :
    keepOperands (keepOperands args [w]) ws = keepOperands args (w :: ws) := by
  unfold keepOperands
  by_cases h : args.length < keptOperands
  · have e : keptOperands - args.length = (keptOperands - args.length - 1) + 1 := by omega
    have l : keptOperands - (args ++ [w]).length = keptOperands - args.length - 1 := by
      rw [List.length_append, List.length_singleton]; omega
    rw [e, List.take_succ_cons, List.take_succ_cons, List.take_nil, l]
    simp
  · have e : keptOperands - args.length = 0 := by omega
    rw [e]
    simp [e]

/-- Receiving with a packet open: it completes when the words it still needs are there, and waits
with all of them in the buffer otherwise. -/
theorem receive_open (c : Word) (ws : List Word) : ∀ (args : List Word) (got : Nat),
    got ≤ nargOf c →
    receive { cmd := some c, args := args, got := got } ws =
      if ws.length < nargOf c - got then
        .waiting { cmd := some c, args := keepOperands args ws, got := got + ws.length }
      else .packet c (keepOperands args (ws.take (nargOf c - got))) (ws.drop (nargOf c - got)) := by
  induction ws with
  | nil =>
    intro args got h
    by_cases hg : got = nargOf c
    · subst hg
      simp [receive, PacketBuf.packet?]
    · have hlt : ¬ nargOf c ≤ got := by omega
      have hpos : ([] : List Word).length < nargOf c - got := by simp; omega
      rw [if_pos hpos]
      simp [receive, PacketBuf.packet?, hlt]
  | cons w ws ih =>
    intro args got h
    by_cases hg : got = nargOf c
    · subst hg
      simp [receive, PacketBuf.packet?]
    · have hlt : ¬ nargOf c ≤ got := by omega
      have hstep : receive { cmd := some c, args := args, got := got } (w :: ws) =
          receive { cmd := some c, args := keepOperands args [w], got := got + 1 } ws := by
        rw [← push_open]
        simp [receive, PacketBuf.packet?, hlt]
      have hn : nargOf c - got = (nargOf c - (got + 1)) + 1 := by omega
      rw [hstep, ih _ _ (by omega), keepOperands_cons, keepOperands_cons]
      by_cases hw : ws.length < nargOf c - (got + 1)
      · have hw' : (w :: ws).length < nargOf c - got := by rw [List.length_cons]; omega
        rw [if_pos hw, if_pos hw', List.length_cons]
        congr 2
        omega
      · have hw' : ¬ (w :: ws).length < nargOf c - got := by rw [List.length_cons]; omega
        rw [if_neg hw, if_neg hw', hn, List.take_succ_cons, List.drop_succ_cons]

/-- Receiving with no packet open, from a stream that holds a word. -/
theorem receive_empty (w : Word) (ws : List Word) :
    receive PacketBuf.empty (w :: ws) =
      if ws.length < nargOf w then
        .waiting { cmd := some w, args := keepOperands [] ws, got := ws.length }
      else .packet w (keepOperands [] (ws.take (nargOf w))) (ws.drop (nargOf w)) := by
  have h : receive PacketBuf.empty (w :: ws) =
      receive { cmd := some w, args := [], got := 0 } ws := rfl
  rw [h, receive_open w ws [] 0 (Nat.zero_le _), Nat.sub_zero, Nat.zero_add]

@[simp] theorem receive_empty_nil : receive PacketBuf.empty [] = .waiting PacketBuf.empty := rfl

/-! ## The three cases of a step -/

theorem stepWith_reset {run : Instr → State P → Result P} {s : State P} (h : s.rstN = false) :
    stepWith run s = .next (hardReset s) := by
  unfold stepWith
  rw [h]
  rfl

theorem stepWith_packet {run : Instr → State P → Result P} {s : State P} {w : Word}
    {args rest : List Word} (h : s.rstN = true) (hr : receive s.pkt s.cmdIn = .packet w args rest) :
    stepWith run s = runPacket run w args (s.afterPacket rest) := by
  unfold stepWith
  rw [if_pos h, hr]

theorem stepWith_waiting {run : Instr → State P → Result P} {s : State P} {b : PacketBuf}
    (h : s.rstN = true) (hr : receive s.pkt s.cmdIn = .waiting b) :
    stepWith run s = .next (s.waitingWith b) := by
  unfold stepWith
  rw [if_pos h, hr]

/-- `step` is the step of a PDC with any parameters, at those of this hardware (R8). -/
theorem step_eq_stepFor (s : State) : step s = stepFor s := by
  have h : exec = execFor := by
    funext i s
    exact exec_eq_execFor i s
  unfold step stepFor
  rw [h]

/-! ## The host's take -/

/-- A word moves on the response stream exactly where `rsp_valid` is 1, and it is the oldest (R6). -/
theorem hostTake_eq_some (s t : State P) (w : Word) :
    hostTake s = some (w, t) ↔
      s.rstN = true ∧ s.rspOut = w :: t.rspOut ∧ t = s.setRspOut t.rspOut := by
  unfold hostTake rspData rspValid
  cases hr : s.rstN <;> cases ho : s.rspOut
  case true.cons x xs =>
    simp only [Bool.true_and, List.isEmpty_cons, Bool.not_false, if_true, List.head?_cons,
      Option.map_some, Option.some.injEq, Prod.mk.injEq, List.cons.injEq, true_and, List.tail_cons]
    constructor
    · rintro ⟨rfl, rfl⟩
      exact ⟨⟨rfl, rfl⟩, rfl⟩
    · rintro ⟨⟨rfl, hx⟩, ht⟩
      exact ⟨rfl, by rw [hx]; exact ht.symm⟩
  all_goals simp

end Machine
end Sys2Proof
end

