-- ==== Sys2Proof/Tests/Slice0.lean ====
section
/-! SUPPORT. Tests of single steps with expected words from the specification (95_test_vectors.md,
the vector named at each test), of decoding and of well-formedness, and for every statement with
hypotheses concrete inputs that meet them (`test_hyp_…`). -/

namespace Sys2Proof
namespace Machine
namespace Tests

/-! ## Helpers -/

abbrev rbNo (k : Nat) (h : k < thisHardware.nRB := by decide) : Fin thisHardware.nRB := ⟨k, h⟩
abbrev fdNo (k : Nat) (h : k < thisHardware.nFD := by decide) : Fin thisHardware.nFD := ⟨k, h⟩
abbrev oscNo (k : Nat) (h : k < thisHardware.nOSC := by decide) : Fin thisHardware.nOSC := ⟨k, h⟩
abbrev smNo (k : Nat) (h : k < thisHardware.nSM := by decide) : Fin thisHardware.nSM := ⟨k, h⟩
abbrev fdnNo (k : Nat) (h : k < thisHardware.nFDN := by decide) : Fin thisHardware.nFDN := ⟨k, h⟩

/-- A valid buffer with this capacity, write index and storage. -/
def bufferOf (capacity index : Word) (m : Memory) : RbInst :=
  { valid := true, capacity := capacity, wrapMask := capacity - 1, writeIndex := index, storage := m }

/-- The state after one step on these words. -/
def after (s : State) (ws : List Word) : Option State :=
  match step (hostSend ws s) with
  | .next t => some t
  | _ => none

/-- What one step on these words answers, and `STATUS` after it. -/
def answer (s : State) (ws : List Word) : Option (List Word × BitVec 5) :=
  (after s ws).map fun t => (t.rspOut, t.status)

/-- V14: the squares in a buffer of capacity 8. -/
def squares : State := State.reset.setRb (rbNo 0) (bufferOf 8 6
  [(1, 0x3F800000), (2, 0x40800000), (3, 0x41100000), (4, 0x41800000), (5, 0x41C80000)])

/-- V27: the exact cache. -/
def exactCache : State := State.reset.setFd (fdNo 0)
  { FdInst.reset with sn := 0x3F800000, cs := 0, q := 0x3F000000 }

/-- P3 before its step 5. -/
def network : State :=
  ((((State.reset.setRb (rbNo 0) (bufferOf 4 1 [(0, 0x3E800000), (3, 0x3F000000)])).setRb (rbNo 1)
    (bufferOf 4 1 [(3, 0xBF000000)])).setRb (rbNo 2) (bufferOf 4 1 [(2, 0xBF000000)])).setRb (rbNo 3)
    (bufferOf 4 1 [(0, 0x3E800000), (1, 0x3F000000)])).setFdn (fdnNo 0)
    { FdnInst.reset with
      bound := true, line := #v[0, 1, 2, 3], len := #v[1, 2, 3, 3], cosT := 0, sinT := 0x3F800000
      inGain := #v[0x3F800000, 0x3F800000, 0x3F800000, 0x3F800000]
      outW := #v[0x3E800000, 0x3E800000, 0x3E800000, 0x3E800000] }

/-! ## Decoding: each command from the bits of its word (R90, R94, R95), the worked packets of R106 and
95_test_vectors.md -/

theorem test_decode_sysReset :
    decodePacket [0b00000001000000000000000000000000] = .command .sysReset [] := by decide

theorem test_decode_sysPrepare :
    decodePacket [0b00000010000000000000000000000000] = .command .sysPrepare [] := by decide

theorem test_decode_sysStart :
    decodePacket [0b00000011000000000000000000000000] = .command .sysStart [] := by decide

theorem test_decode_sysRdcsr :
    decodePacket [0b00000100000000000000011000000000] = .command (.sysRdcsr .errCode) [] := by decide

theorem test_decode_sysClrstatus :
    decodePacket [0b00000101000000000000000000000001, 0x10] =
      .command (.sysClrstatus 0x10) [] := by decide

theorem test_decode_rbCreate :
    decodePacket [0b00010000000000110000000000000001, 101] = .command (.rbCreate 3 101) [] := by decide

theorem test_decode_rbDestroy :
    decodePacket [0b00010001000011110000000000000000] = .command (.rbDestroy 15) [] := by decide

theorem test_decode_rbWrite :
    decodePacket [0b00010010000000110000000000000001, 0x3F800000] =
      .command (.rbWrite 3 0x3F800000) [] := by decide

theorem test_decode_rbReadi :
    decodePacket [0b00010011000001000000000000000001, 0xFFFFFFFF] =
      .command (.rbReadi 4 0xFFFFFFFF) [] := by decide

theorem test_decode_rbReadf :
    decodePacket [0b00010100000000110000001000000001, 0x40200000] =
      .command (.rbReadf 3 .linear 0x40200000) [] := by decide

theorem test_decode_fdSetparam :
    decodePacket [0b00100000000001110000000000000100, 1, 2, 3, 4] =
      .command (.fdSetparam 7 1 2 3 4) [] := by decide

theorem test_decode_fdCompute :
    decodePacket [0b00100001000000000000110000000000] = .command (.fdCompute 0 .parametric) [] := by
  decide

theorem test_decode_fdGetcoef :
    decodePacket [0b00100010000000010000000000000000] = .command (.fdGetcoef 1) [] := by decide

theorem test_decode_oscProcess :
    decodePacket [0b00110000000000010000011000000011, 1, 2, 3] =
      .command (.oscProcess 1 .phasorInv 1 2 3) [] := by decide

theorem test_decode_smConfig :
    decodePacket [0b01000000000011110000000000000010, 1, 2] =
      .command (.smConfig 15 1 2) [] := by decide

theorem test_decode_smProcess :
    decodePacket [0b01000001000000100000000100000001, 0x3F000000] =
      .command (.smProcess 2 .snap 0x3F000000) [] := by decide

theorem test_decode_apfProcess :
    decodePacket [0b01010000000001000001001100000011, 1, 2, 3] =
      .command (.apfProcess 4 .gerzon .lagrange 1 2 3) [] := by decide

theorem test_decode_combProcess :
    decodePacket [0b01100000000000000000000100000100, 1, 2, 3, 4] =
      .command (.combProcess 0 .hermite 1 2 3 4) [] := by decide

theorem test_decode_fdnBind :
    decodePacket [0b01110000000000010000000000000100, 0, 1, 2, 15] =
      .command (.fdnBind 1 0 1 2 15) [] := by decide

theorem test_decode_fdnSetlen :
    decodePacket [0b01110001000000000000000000000100, 1, 2, 3, 4] =
      .command (.fdnSetlen 0 1 2 3 4) [] := by decide

theorem test_decode_fdnSetrot :
    decodePacket [0b01110010000000000000000000000010, 1, 2] =
      .command (.fdnSetrot 0 1 2) [] := by decide

theorem test_decode_fdnSetdamp :
    decodePacket [0b01110011000000000000000000000001, 1] = .command (.fdnSetdamp 0 1) [] := by decide

theorem test_decode_fdnSetgain :
    decodePacket [0b01110100000000000000000000001000, 1, 2, 3, 4, 5, 6, 7, 8] =
      .command (.fdnSetgain 0 1 2 3 4 5 6 7 8) [] := by decide

theorem test_decode_fdnStep :
    decodePacket [0b01110101000000000000000000000011, 1, 2, 3, 0x01000000] =
      .command (.fdnStep 0 1 2 3) [0x01000000] := by decide

/-- Every SHAPE and WAVE number (R95). -/
theorem test_decode_shapes :
    ([0, 1, 2, 3, 4, 5, 6, 7, 8, 9, 10, 11, 12, 13].map fun n => Shape.ofField? (BitVec.ofNat 4 n)) =
      [some .flat, some .lpf1, some .hpf1, some .lpf2, some .hpf2, some .apf1, some .apf2, some .bpf,
        some .brf, some .peak, some .lshelf, some .hshelf, some .parametric, none] ∧
    ([0, 1, 2, 3, 4, 5, 6, 7].map fun n => Wave.ofField? (BitVec.ofNat 4 n)) =
      [some .sine, some .triangle, some .sawtooth, some .square, some .trapezoid, some .phasor,
        some .phasorInv, none] := by decide

/-- V1 to V6d: the refusals of the decoder and their priority. -/
theorem test_decode_refused :
    decodePacket [0x00000000] = .refused 0 .eOpcode [] ∧
    decodePacket [0x15000000] = .refused 0x15000000 .eOpcode [] ∧
    decodePacket [0x99000002, 0x12000001, 0x3F800000] = .refused 0x99000002 .eOpcode [] ∧
    decodePacket [0x12000000] = .refused 0x12000000 .eLength [] ∧
    decodePacket [0x12000002, 1, 2] = .refused 0x12000002 .eLength [] ∧
    decodePacket [0x14000401, 0x3F800000] = .refused 0x14000401 .eMod [] ∧
    decodePacket [0x12001001, 0x3F800000] = .refused 0x12001001 .eMod [] ∧
    decodePacket [0x04000700] = .refused 0x04000700 .eMod [] ∧
    decodePacket [0x30000703, 0, 0x473B8000, 0] = .refused 0x30000703 .eMod [] ∧
    decodePacket [0x50042003, 0, 0, 0] = .refused 0x50042003 .eMod [] ∧
    decodePacket [0x14100401, 0x3F800000] = .refused 0x14100401 .eMod [] ∧
    decodePacket [0x12100001, 0x3F800000] = .refused 0x12100001 .eInst [] ∧
    decodePacket [0x03010000] = .refused 0x03010000 .eInst [] ∧
    decodePacket [0x70000004, 0, 1, 2, 16] = .refused 0x70000004 .eInst [] ∧
    decodePacket [0x70020004, 0, 1, 2, 3] = .refused 0x70020004 .eInst [] := by decide

/-- R92: a packet cut short waits. -/
theorem test_decode_incomplete :
    decodePacket [] = .incomplete ∧ decodePacket [0x60000004, 0x3F800000] = .incomplete := by decide

/-- The opcode table's numbering: the command word is bits 31..0, the operand words follow. -/
theorem test_decodeTableWord :
    decodeTableWord 32 0x03000000 = some .sysStart ∧
    decodeTableWord 32 0x21000300 = some (.fdCompute 0 .lpf2) ∧
    decodeTableWord 32 0x70010004 = some (.fdnBind 1 0 0 0 0) ∧
    decodeTableWord 32 0x99000000 = none := by decide

theorem test_withFetchWord :
    (State.reset.withFetchWord 32 0x03000000).cmdIn = [0x03000000] ∧
    step (State.reset.withFetchWord 32 0x03000000) = exec .sysStart State.reset := ⟨rfl, rfl⟩

/-! ## Well-formedness: an ill-formed term for each check -/

theorem test_wf_refuses_rb :
    (Instr.rbCreate 16 4).wf = false ∧ (Instr.rbDestroy 16).wf = false ∧
    (Instr.rbWrite 16 0).wf = false ∧ (Instr.rbReadi 16 0).wf = false ∧
    (Instr.rbReadf 16 .none 0).wf = false ∧ (Instr.apfProcess 16 .gerzon .none 0 0 0).wf = false ∧
    (Instr.combProcess 16 .none 0 0 0 0).wf = false := by decide

theorem test_wf_refuses_fd_osc_sm :
    (Instr.fdSetparam 8 0 0 0 0).wf = false ∧ (Instr.fdCompute 8 .flat).wf = false ∧
    (Instr.fdGetcoef 8).wf = false ∧ (Instr.oscProcess 8 .sine 0 0 0).wf = false ∧
    (Instr.smConfig 16 0 0).wf = false ∧ (Instr.smProcess 16 .snap 0).wf = false := by decide

theorem test_wf_refuses_fdn :
    (Instr.fdnBind 2 0 1 2 3).wf = false ∧ (Instr.fdnBind 0 16 1 2 3).wf = false ∧
    (Instr.fdnBind 0 0 16 2 3).wf = false ∧ (Instr.fdnBind 0 0 1 16 3).wf = false ∧
    (Instr.fdnBind 0 0 1 2 16).wf = false ∧ (Instr.fdnSetlen 2 0 0 0 0).wf = false ∧
    (Instr.fdnSetrot 2 0 0).wf = false ∧ (Instr.fdnSetdamp 2 0).wf = false ∧
    (Instr.fdnSetgain 2 0 0 0 0 0 0 0 0).wf = false ∧ (Instr.fdnStep 2 0 0 0).wf = false := by decide

/-! ## SYS -/

/-- V72: the buffer is gone and the flags are clear. -/
theorem test_sysReset :
    ((after (squares.setStatus 0x1F) [0x01000000]).map fun t =>
      (t.rspOut, t.status, (t.rbAt (rbNo 0)).valid)) = some ([0x01000000], 0, false) := by decide

/-- V71. -/
theorem test_sysStart_sysPrepare :
    ((after squares [0x03000000]).map fun t => (t.rspOut, t.mode)) = some ([0x03000000], .run) ∧
    ((after (squares.setMode .run) [0x02000000]).map fun t => (t.rspOut, t.mode)) =
      some ([0x02000000], .prepare) := by decide

/-- V9e. -/
theorem test_sysRdcsr :
    answer State.reset [0x04000000] = some ([0x04000001, 0x50554107], 0) ∧
    answer State.reset [0x04000100] = some ([0x04000001, 0x0F07070F], 0) ∧
    answer State.reset [0x04000200] = some ([0x04000001, 0x00011001], 0) ∧
    answer State.reset [0x04000300] = some ([0x04000001, 0], 0) := by decide

/-- V70. -/
theorem test_sysClrstatus :
    ((after ((State.reset.setStatus 0x13).setErr 0x10010001 5) [0x05000001, 0x10]).map fun t =>
      (t.rspOut, t.status, t.errInfo, t.errCode)) = some ([0x05000000], 0x03, 0, 0) ∧
    ((after ((State.reset.setStatus 0x1F).setErr 0x10010001 5) [0x05000001, 0xFFFFFFEF]).map fun t =>
      (t.status, t.errInfo, t.errCode)) = some (0x10, 0x10010001, 5) := by decide

/-! ## Refused commands -/

/-- V9c: the first refusal since `F_CMD` was 0 is kept. -/
theorem test_refused_record :
    ((after (State.reset.setMode .run) [0x11000000]).map fun t =>
      (t.rspOut, t.status, t.errInfo, t.errCode)) = some ([0x11000500], 0x10, 0x11000000, 5) ∧
    ((after ((State.reset.setStatus 0x10).setErr 0x11000000 5) [0x13050001, 1]).map fun t =>
      (t.rspOut, t.status, t.errInfo, t.errCode)) = some ([0x13050600], 0x10, 0x11000000, 5) := by
  decide

/-- V7, V7c to V7e, V8b to V8d. -/
theorem test_refused_codes :
    answer (State.reset.setMode .run) [0x10000001, 4] = some ([0x10000500], 0x10) ∧
    answer (State.reset.setMode .run) [0x70000004, 0, 1, 2, 3] = some ([0x70000500], 0x10) ∧
    answer (State.reset.setMode .run) [0x10100001, 4] = some ([0x10100400], 0x10) ∧
    answer (State.reset.setMode .run) [0x10000001, 0x11170] = some ([0x10000500], 0x10) ∧
    answer State.reset [0x50000003, 0x3F800000, 0x40000000, 0x3F000000] =
      some ([0x50000600], 0x10) ∧
    answer State.reset [0x75000003, 0x3F800000, 0x3F000000, 0x3F800000] =
      some ([0x75000600], 0x10) := by decide

/-! ## RB -/

/-- S1, V9. -/
theorem test_rbCreate :
    ((after squares [0x10000001, 100]).map fun t =>
      (t.rspOut, t.rbAt (rbNo 0))) = some ([0x10000000], bufferOf 128 0 []) ∧
    answer squares [0x10000001, 0x10001] = some ([0x10000700], 0x10) := by decide

/-- V9d: destroying an instance that was never created changes nothing. -/
theorem test_rbDestroy :
    ((after squares [0x11000000]).map fun t => (t.rspOut, t.rbAt (rbNo 0))) =
      some ([0x11000000], RbInst.reset) ∧
    answer State.reset [0x11000000] = some ([0x11000000], 0) := by decide

/-- V10: the fourth write wraps the index; writing `+0` lists nothing. -/
theorem test_rbWrite :
    ((after (State.reset.setRb (rbNo 0) (bufferOf 4 3 [(0, 1), (1, 2)])) [0x12000001, 4]).map fun t =>
      (t.rspOut, t.rbAt (rbNo 0))) =
        some ([0x12000000], bufferOf 4 0 [(0, 1), (1, 2), (3, 4)]) ∧
    ((after (State.reset.setRb (rbNo 0) (bufferOf 4 1 [(0, 1), (1, 2)])) [0x12000001, 0]).map fun t =>
      t.rbAt (rbNo 0)) = some (bufferOf 4 2 [(0, 1)]) := by decide

/-- V11 and P1: a delay beyond the capacity aliases. -/
theorem test_rbReadi :
    answer squares [0x13000001, 9] = some ([0x13000001, 0x41C80000], 0x01) ∧
    answer (State.reset.setRb (rbNo 0) (bufferOf 4 3 [(0, 0x3F800000), (1, 0x40000000),
      (2, 0x40400000)])) [0x13000001, 0xFFFFFFFF] = some ([0x13000001, 0x3F800000], 0x01) := by decide

/-- V14: delay 2.5 under the four policies. -/
theorem test_rbReadf_policies :
    answer squares [0x14000001, 0x40200000] = some ([0x14000001, 0x41800000], 0) ∧
    answer squares [0x14000101, 0x40200000] = some ([0x14000001, 0x41440000], 0) ∧
    answer squares [0x14000201, 0x40200000] = some ([0x14000001, 0x41480000], 0) ∧
    answer squares [0x14000301, 0x40200000] = some ([0x14000001, 0x41440000], 0) := by
  decide +kernel

/-- V14 at the delays 7.9 and 8.5, V18 at a NaN and at 2^31. -/
theorem test_rbReadf_ends :
    answer squares [0x14000101, 0x40FCCCCD] = some ([0x14000001, 0xBF819995], 0) ∧
    answer squares [0x14000301, 0x40FCCCCD] = some ([0x14000001, 0xBF36665D], 0) ∧
    answer squares [0x14000101, 0x41080000] = some ([0x14000001, 0x41510000], 0x01) ∧
    answer squares [0x14000001, 0x7FC00000] = some ([0x14000001, 0], 0x01) ∧
    answer squares [0x14000001, 0x4F000000] = some ([0x14000001, 0], 0x01) := by decide +kernel

/-! ## FD -/

/-- V26: `omega`, and `gain` by `P_POW10_ZERO`; V32: a sample rate of zero is flagged. -/
theorem test_fdSetparam :
    ((after State.reset [0x20000004, 0x463B8000, 0x473B8000, 0x3F000000, 0]).map fun t =>
      (t.rspOut, t.status, (t.fdAt (fdNo 0)).omega, (t.fdAt (fdNo 0)).gain,
        (t.fdAt (fdNo 0)).q)) = some ([0x20000000], 0, 0x3FC90FDB, 0x3F800000, 0x3F000000) ∧
    ((after State.reset [0x20000004, 0, 0x473B8000, 0x3F000000, 0]).map fun t =>
      (t.status, (t.fdAt (fdNo 0)).sn, (t.fdAt (fdNo 0)).cs)) = some (0x08, 0, 0x3F800000) := by
  decide +kernel

/-- V27. -/
theorem test_fdCompute_shapes :
    ([0x21000100, 0x21000200, 0x21000300, 0x21000400, 0x21000500, 0x21000600, 0x21000700].map
      fun w => (after exactCache [w]).map fun t => (t.fdAt (fdNo 0)).coefs) =
      [some [0x3F000000, 0x3F000000, 0, 0x3F800000, 0, 0],
        some [0x3F000000, 0xBF000000, 0, 0x3F800000, 0, 0],
        some [0x3E800000, 0x3F000000, 0x3E800000, 0x3F800000, 0x80000000, 0],
        some [0x3E800000, 0xBF000000, 0x3E800000, 0x3F800000, 0x80000000, 0],
        some [0, 0x3F800000, 0, 0x3F800000, 0, 0],
        some [0, 0x80000000, 0x3F800000, 0x3F800000, 0x80000000, 0],
        some [0x3F000000, 0, 0xBF000000, 0x3F800000, 0x80000000, 0]] := by decide +kernel

/-- V30: a shape without a formula; S7: FLAT. -/
theorem test_fdCompute_flags :
    ((after exactCache [0x21000900]).map fun t => (t.rspOut, t.status, (t.fdAt (fdNo 0)).coefs)) =
      some ([0x21000000], 0x04, [0, 0, 0, 0, 0, 0]) ∧
    ((after exactCache [0x21000000]).map fun t => (t.status, (t.fdAt (fdNo 0)).coefs)) =
      some (0, [0x3F800000, 0, 0, 0x3F800000, 0, 0]) := by decide +kernel

/-- V33: the two instances are independent; the order of the six words. -/
theorem test_fdGetcoef :
    answer (State.reset.setFd (fdNo 0) ⟨0, 0, 0, 0, 0, 0, 0, 0, 1, 2, 3, 4, 5, 6⟩) [0x22000000] = some ([0x22000006, 1, 2, 3, 4, 5, 6], 0) ∧
    answer (State.reset.setFd (fdNo 0) { FdInst.reset with a0 := 1 }) [0x22010000] =
      some ([0x22010006, 0, 0, 0, 0, 0, 0], 0) := by decide

/-! ## OSC -/

/-- V34 at n = 3 and the first step of V35. -/
theorem test_oscProcess_phase :
    ((after (State.reset.setOsc (oscNo 0) { OscInst.reset with phase := 0x4096CBE4 })
      [0x30000503, 0x463B8000, 0x473B8000, 0]).map fun t =>
        (t.rspOut, t.status, t.oscAt (oscNo 0))) =
      some ([0x30000001, 0x3F400000], 0, ⟨0, 0x473B8000, 0x463B8000⟩) ∧
    ((after State.reset [0x30000503, 0xC63B8000, 0x473B8000, 0]).map fun t =>
        (t.rspOut, (t.oscAt (oscNo 0)).phase)) =
      some ([0x30000001, 0], 0x4096CBE4) := by decide +kernel

/-- V38, the rows without `TRANS` at 1.0; V39; V40's flag. -/
theorem test_oscProcess_waves :
    answer State.reset [0x30000203, 0, 0x473B8000, 0x3F800000] =
      some ([0x30000001, 0xBF2E833E], 0) ∧
    answer State.reset [0x30000503, 0, 0x473B8000, 0xBF800000] =
      some ([0x30000001, 0x3F57419F], 0) ∧
    answer State.reset [0x30000603, 0, 0x473B8000, 0xBF800000] =
      some ([0x30000001, 0x3EAE833E], 0) ∧
    answer State.reset [0x30000203, 0, 0x473B8000, 0xAEDBE6FF] =
      some ([0x30000001, 0xBF800000], 0) ∧
    answer State.reset [0x30000203, 0x43DC0000, 0, 0] = some ([0x30000001, 0xBF800000], 0x08) := by
  decide +kernel

/-! ## SM -/

/-- V48. -/
theorem test_smConfig :
    ((after State.reset [0x40010002, 0, 0x473B8000]).map fun t =>
      (t.rspOut, t.status, (t.smAt (smNo 1)).a, (t.smAt (smNo 1)).b)) =
        some ([0x40010000], 0x08, 0, 0x3F800000) := by decide +kernel

/-- V45's second step, V46's step 11. -/
theorem test_smProcess :
    ((after (State.reset.setSm (smNo 2) ⟨0x3F000000, 0x3F000000, 0x3F000000, 0⟩)
      [0x41020001, 0x3F800000]).map fun t => (t.rspOut, t.smAt (smNo 2))) =
        some ([0x41020001, 0x3F400000], ⟨0x3F000000, 0x3F000000, 0x3F400000, 0x3F000000⟩) ∧
    ((after (State.reset.setSm (smNo 2) ⟨0x3F000000, 0x3F000000, 0x3F7FC000, 0⟩)
      [0x41020101, 0x3F800000]).map fun t => (t.rspOut, t.smAt (smNo 2))) =
        some ([0x41020001, 0x3F800000], ⟨0x3F000000, 0x3F000000, 0x3F800000, 0x3F7FC000⟩) := by
  decide +kernel

/-! ## APF and COMB -/

/-- V52 at n = 0 and V53 at n = 2. -/
theorem test_apfProcess :
    ((after (State.reset.setRb (rbNo 4) (bufferOf 4 0 []))
      [0x50040003, 0x3F800000, 0x40000000, 0x3F000000]).map fun t =>
        (t.rspOut, t.status, t.rbAt (rbNo 4))) =
      some ([0x50040001, 0xBF000000], 0, bufferOf 4 1 [(0, 0x3F800000)]) ∧
    ((after (State.reset.setRb (rbNo 4) (bufferOf 4 2 [(0, 0x3F800000)]))
      [0x50041003, 0, 0x40000000, 0x3F000000]).map fun t => (t.rspOut, t.rbAt (rbNo 4))) =
      some ([0x50040001, 0x3F400000], bufferOf 4 3 [(0, 0x3F800000), (2, 0x3F000000)]) := by
  decide +kernel

/-- V54: gain 1.0 is flagged, gain `-0` is not. -/
theorem test_apfProcess_flags :
    answer (State.reset.setRb (rbNo 4) (bufferOf 4 0 []))
      [0x50040103, 0x3F800000, 0x40000000, 0x3F800000] = some ([0x50040001, 0xBF800000], 0x02) ∧
    answer (State.reset.setRb (rbNo 4) (bufferOf 4 0 []))
      [0x50040003, 0x3F800000, 0x40000000, 0x80000000] = some ([0x50040001, 0], 0) := by
  decide +kernel

/-- V56 at n = 2, V57, and V58 at the first command. -/
theorem test_combProcess :
    ((after (State.reset.setRb (rbNo 0) (bufferOf 8 2 [(0, 0x3F800000)]))
      [0x60000204, 0, 0x40200000, 0x3F000000, 0x3F000000]).map fun t =>
        (t.rspOut, t.status, t.rbAt (rbNo 0))) =
      some ([0x60000001, 0x3E800000], 0, bufferOf 8 3 [(0, 0x3F800000), (2, 0x3E800000)]) ∧
    answer (State.reset.setRb (rbNo 0) (bufferOf 8 0 []))
      [0x60000004, 0x3F800000, 0x40000000, 0x3F800000, 0x3F800000] =
        some ([0x60000001, 0], 0x02) ∧
    answer (State.reset.setRb (rbNo 0) (bufferOf 1 0 []))
      [0x60000004, 0x3F800000, 0x3F800000, 0x40000000, 0x3F800000] =
        some ([0x60000001, 0], 0x03) := by decide +kernel

/-! ## FDN -/

/-- V60. -/
theorem test_fdn_parameters :
    ((after State.reset [0x70000004, 0, 1, 2, 3]).map fun t =>
      (t.rspOut, (t.fdnAt (fdnNo 0)).bound, (t.fdnAt (fdnNo 0)).line)) =
        some ([0x70000000], true, #v[0, 1, 2, 3]) ∧
    ((after (State.reset.setMode .run) [0x71000004, 1, 2, 3, 3]).map fun t =>
      (t.rspOut, (t.fdnAt (fdnNo 0)).len)) = some ([0x71000000], #v[1, 2, 3, 3]) ∧
    ((after State.reset [0x72000002, 0, 0x3F000000]).map fun t =>
      (t.rspOut, (t.fdnAt (fdnNo 0)).cosT, (t.fdnAt (fdnNo 0)).sinT)) =
        some ([0x72000000], 0, 0x3F000000) ∧
    ((after State.reset [0x73000001, 0x3E800000]).map fun t =>
      (t.rspOut, (t.fdnAt (fdnNo 0)).dampA, (t.fdnAt (fdnNo 0)).dampB)) =
        some ([0x73000000], 0x3E800000, 0x3F400000) ∧
    ((after State.reset [0x74000008, 1, 2, 3, 4, 5, 6, 7, 8]).map fun t =>
      (t.rspOut, (t.fdnAt (fdnNo 0)).inGain, (t.fdnAt (fdnNo 0)).outW)) =
        some ([0x74000000], #v[1, 2, 3, 4], #v[5, 6, 7, 8]) := by decide +kernel

/-- P3, step 5. -/
theorem test_fdnStep :
    ((after network [0x75000003, 0, 0x3F000000, 0x3F800000]).map fun t =>
      (t.rspOut, t.status, (t.fdnAt (fdnNo 0)).fb, (t.rbAt (rbNo 1)), (t.rbAt (rbNo 3)))) =
      some ([0x75000001, 0xBE400000], 0, #v[0, 0x3E800000, 0x3E800000, 0x3E000000],
        bufferOf 4 2 [(1, 0x3E800000), (3, 0xBF000000)],
        bufferOf 4 2 [(0, 0x3E800000), (1, 0x3E000000)]) := by decide +kernel

/-- V63: a length equal to the capacity, and a decay of 1.0. -/
theorem test_fdnStep_flags :
    ((after (network.setFdn (fdnNo 0) { (network.fdnAt (fdnNo 0)) with len := #v[1, 2, 3, 4] })
      [0x75000003, 0x3F800000, 0x3F000000, 0x3F800000]).map (·.status)) = some 0x01 ∧
    ((after network [0x75000003, 0x3F800000, 0x3F800000, 0x3F800000]).map (·.status)) =
      some 0x02 := by decide +kernel

/-! ## The ports and the assembler -/

/-- R350: hard reset, and no word moves while `rst_n` is low. -/
theorem test_hardReset :
    (match step ((driveReset false squares).setRspOut [1, 2]) with
      | .next t => some ((t.rbAt (rbNo 0)).valid, t.rspOut, cmdReady t, rspValid t)
      | _ => none) = some (false, [], false, false) := by decide

/-- R6, R350: the host takes the words in their order while `rst_n` is high; of what is left when it
falls no word moves. -/
theorem test_hostTake :
    ((hostTake (squares.setRspOut [1, 2])).map fun x => (x.1, x.2.rspOut)) = some (1, [2]) ∧
    (hostTake (driveReset false (squares.setRspOut [2]))).isNone = true ∧
    (hostTake squares).isNone = true := by decide

/-- R92: a packet that arrives in two parts. -/
theorem test_packet_in_parts :
    (match step (hostSend [0x12000001] squares) with
      | .next t => (t.pkt, answer t [0x3F800000])
      | _ => (PacketBuf.empty, none)) = (⟨some 0x12000001, [], 0⟩, some ([0x12000000], 0)) := by decide

/-- R104, R106: a written form of each operand kind, and a name that is none. -/
theorem test_assemble :
    (assemble "FDN.BIND 0, 0, 1, 2, 3".toList).map encode = some [0x70000004, 0, 1, 2, 3] ∧
    (assemble "APF.PROCESS.NONE.GERZON 4, 1.0, 2.0, 0.5".toList).map encode =
      some [0x50041003, 0x3F800000, 0x40000000, 0x3F000000] ∧
    assemble "RB.COPY 3".toList = none := by decide +kernel

/-! ## A PDC with other parameters (R8, U5 to U7) -/

/-- One instance of most units, no phase wrap, and a design whose band-pass is the constant 2. -/
def otherHardware : Params :=
  { thisHardware with
    nRB := 1, nFD := 1, nOSC := 256, nSM := 3, nFDN := 1, capLog2Max := 2, oscPhaseWrap := false
    fdDesign := { cookbookDesign with bpf := fun _ _ _ => ⟨fTwo, 0, 0, fOne, 0, 0⟩ }
    nRB_bounds := by decide, nFD_bounds := by decide, nOSC_bounds := by decide
    nSM_bounds := by decide, nFDN_bounds := by decide, capLog2Max_bound := by decide }

/-- What one step of it on these words answers, from reset. -/
def otherAnswer (ws : List Word) : Option (List Word) :=
  match stepFor (hostSend ws (State.resetFor otherHardware)) with
  | .next t => some t.rspOut
  | _ => none

/-- R58: CFG0 and CFG1 of that PDC; R97, R131: its instance range and its largest capacity. -/
theorem test_other_parameters :
    otherAnswer [0x04000100] = some [0x04000001, 0x02FF0000] ∧
    otherAnswer [0x04000200] = some [0x04000001, 0x00000200] ∧
    otherAnswer [0x10010001, 4] = some [0x10010400] ∧ otherAnswer [0x10000001, 4] = some [0x10000000] ∧
    otherAnswer [0x10000001, 5] = some [0x10000700] := by decide

/-- R204: a negative increment leaves a negative phase where the wrap is off; R187: FD.COMPUTE divides
what the design gives. -/
theorem test_other_wrap_and_design :
    (match execFor (P := otherHardware) (.oscProcess 255 .phasor 0xBF800000 0x3F800000 0)
        (State.resetFor _) with
      | .next t => some (t.oscAt ⟨255, by decide⟩).phase
      | _ => none) = some 0xC0C90FDB ∧
    (match execFor (P := otherHardware) (.fdCompute 0 .bpf) (State.resetFor _) with
      | .next t => some (t.fdAt ⟨0, by decide⟩).coefs
      | _ => none) = some [0x40000000, 0, 0, 0x3F800000, 0, 0] := by decide +kernel

/-! ## Inputs that meet the hypotheses of the statements

`stocked` holds every instance but RB 15: RB 0 the squares, RB 1 a capacity of 1, RB 14 the largest
capacity at its last index, the rest fresh buffers of 4; FDN 0 is bound to buffers that are valid,
FDN 1 to one that is not. -/

/-- Sixteen fresh buffers. -/
def filled : State := { State.reset with rb := Vector.replicate thisHardware.nRB (freshBuffer 4) }

def boundTo (l : Vector (BitVec 8) 4) : FdnInst := { FdnInst.reset with bound := true, line := l }

def stocked : State :=
  (((((filled.setRb (rbNo 0) (squares.rbAt (rbNo 0))).setRb (rbNo 1)
    (bufferOf 1 0 [(0, 0x40E00000)])).setRb (rbNo 14) (bufferOf 65536 65535 [])).setRb (rbNo 15)
    RbInst.reset).setFdn (fdnNo 0) (boundTo #v[0, 1, 2, 3])).setFdn (fdnNo 1)
    (boundTo #v[2, 2, 3, 15])

/-- In RUN, every flag set, the first refusal recorded. -/
def flagged : State := ((stocked.setMode .run).setStatus 0x1F).setErr 0x10010001 5

/-- FDN 1 bound to two buffers, each twice. -/
def shared : State := stocked.setFdn (fdnNo 1) (boundTo #v[2, 2, 3, 3])

/-- A buffer of a power of two at an index below it, its storage canonical, meets the invariant. -/
theorem bufferOf_inv (k : Nat) (index : Word) (m : Memory) (hk : k ≤ thisHardware.capLog2Max)
    (hi : index.toNat < 2 ^ k) (hm : Memory.wf m = true) (hb : ∀ c ∈ m, c.1 < 2 ^ k) :
    (bufferOf (BitVec.ofNat 32 (2 ^ k)) index m).Inv := by
  have hlt : 2 ^ k < 2 ^ 32 := Nat.pow_lt_pow_right (by decide) (by have := thisHardware.capLog2Max_bound; omega)
  have hpos : 0 < 2 ^ k := Nat.two_pow_pos k
  have hc : (BitVec.ofNat 32 (2 ^ k)).toNat = 2 ^ k := by
    rw [BitVec.toNat_ofNat, Nat.mod_eq_of_lt hlt]
  refine ⟨fun _ => ⟨k, hk, hc, ?_, hi⟩, fun h => absurd h (by simp [bufferOf]), hm, ?_⟩
  · show (BitVec.ofNat 32 (2 ^ k) - 1).toNat = _
    rw [BitVec.toNat_sub, hc]
    show (2 ^ 32 - 1 + 2 ^ k) % 2 ^ 32 = _
    omega
  · intro c hcm
    show c.1 < (BitVec.ofNat 32 (2 ^ k)).toNat
    rw [hc]
    exact hb c hcm

theorem filled_inv : filled.Inv where
  rb i := by
    have h : filled.rbAt i = freshBuffer 4 := by
      unfold State.rbAt filled
      exact Vector.getElem_replicate _
    rw [h]
    exact bufferOf_inv 2 0 [] (by decide) (by decide) rfl (by simp)
  fdn i := by
    have h : filled.fdnAt i = FdnInst.reset := by
      unfold State.fdnAt filled
      exact Vector.getElem_replicate _
    rw [h]
    intro k
    match k with
    | 0 => decide
    | 1 => decide
    | 2 => decide
    | 3 => decide
  err _ := ⟨rfl, rfl⟩
  pkt := ⟨fun _ => rfl, fun c h => by cases h⟩

theorem boundTo_inv (a b c d : BitVec 8) (h : a.toNat < 16 ∧ b.toNat < 16 ∧ c.toNat < 16 ∧ d.toNat < 16) :
    (boundTo #v[a, b, c, d]).Inv := by
  intro k
  match k with
  | 0 => exact h.1
  | 1 => exact h.2.1
  | 2 => exact h.2.2.1
  | 3 => exact h.2.2.2

theorem stocked_inv : stocked.Inv :=
  (((((filled_inv.setRb _ (bufferOf_inv 3 6 _ (by decide) (by decide) (by decide) (by decide))).setRb _
    (bufferOf_inv 0 0 _ (by decide) (by decide) (by decide) (by decide))).setRb _
    (bufferOf_inv 16 65535 [] (by decide) (by decide) rfl (by simp))).setRb _
    RbInst.reset_inv).setFdn _ (boundTo_inv 0 1 2 3 (by decide))).setFdn _
    (boundTo_inv 2 2 3 15 (by decide))

theorem running_inv : (stocked.setMode .run).Inv := stocked_inv.setMode _

theorem shared_inv : shared.Inv := stocked_inv.setFdn _ (boundTo_inv 2 2 3 3 (by decide))

theorem flagged_inv : flagged.Inv :=
  ⟨stocked_inv.rb, stocked_inv.fdn, fun h => absurd h (by decide), stocked_inv.pkt⟩

/-! ### Encoding and receiving -/

theorem test_hyp_DecodeOfEncode :
    (Instr.rbWrite 15 0).wf = true ∧ (Instr.fdnBind 1 15 15 15 15).wf = true ∧
    (Instr.fdCompute 7 .parametric).wf = true := by decide

theorem test_hyp_EncodeOfDecode :
    decodePacket [0x700F0004, 0, 0, 0, 0, 0] = .refused 0x700F0004 .eInst [0] ∧
    decodePacket [0x70010004, 15, 15, 15, 15, 0] = .command (.fdnBind 1 15 15 15 15) [0] := by decide

/-- Each of the four checks failing and passing, at the ends of its field. -/
theorem test_hyp_DecodeCheckOrder :
    (∀ o : Opcode, o.code ≠ opcOf 0x76000000) ∧
    (Opcode.fdnStep.code = opcOf 0x75000002 ∧ nargField 0x75000002 ≠ Opcode.fdnStep.narg) ∧
    (Opcode.sysRdcsr.code = opcOf 0x04000700 ∧ nargField 0x04000700 = Opcode.sysRdcsr.narg ∧
      ([] : List Word).length = nargOf 0x04000700 ∧
      modifiersLegal .sysRdcsr (varOf 0x04000700) (selOf 0x04000700) = false) ∧
    (Opcode.fdnBind.code = opcOf 0x70010004 ∧ nargField 0x70010004 = Opcode.fdnBind.narg ∧
      ([0, 0, 0, 16] : List Word).length = nargOf 0x70010004 ∧
      modifiersLegal .fdnBind (varOf 0x70010004) (selOf 0x70010004) = true ∧
      instanceLegal .fdnBind (instOf 0x70010004) [0, 0, 0, 16] = false ∧
      instanceLegal .fdnBind (instOf 0x70010004) [0, 0, 0, 15] = true) := by
  refine ⟨fun o => by cases o <;> decide, ?_, ?_, ?_⟩ <;> decide

theorem test_hyp_StepRunsDecodedCommand :
    let s := hostSend [0x11000000, 0x02000000] stocked
    s.rstN = true ∧ s.pkt = PacketBuf.empty ∧
      decodePacket s.cmdIn = .command (.rbDestroy 0) [0x02000000] := by decide

theorem test_hyp_StepRefusesIllegalPacket :
    let s := hostSend [0x99000001, 0, 0x02000000] stocked
    s.rstN = true ∧ s.pkt = PacketBuf.empty ∧
      decodePacket s.cmdIn = .refused 0x99000001 .eOpcode [0x02000000] := by decide

theorem test_hyp_PartialPacketWaits :
    let s := hostSend [0x99000009, 1, 2, 3, 4, 5, 6, 7, 8] stocked
    s.rstN = true ∧ s.pkt = PacketBuf.empty ∧ decodePacket s.cmdIn = .incomplete ∧
      decodePacket stocked.cmdIn = .incomplete := by decide

/-- An accepted packet, one the decoder refuses and one the state refuses. -/
theorem test_hyp_EveryPacketAnsweredOnce :
    stocked.Inv ∧ stocked.rstN = true ∧
    (receive stocked.pkt [0x13000001, 1] = .packet 0x13000001 [1] [] ∧
      decode 0x13000001 [1] = .ok (.rbReadi 0 1) ∧ refusalOf stocked (.rbReadi 0 1) = none) ∧
    receive stocked.pkt [0x13000000] = .packet 0x13000000 [] [] ∧
    (receive stocked.pkt [0x130F0001, 1] = .packet 0x130F0001 [1] [] ∧
      decode 0x130F0001 [1] = .ok (.rbReadi 15 1) ∧
      refusalOf stocked (.rbReadi 15 1) = some .eNobuf) :=
  ⟨stocked_inv, by decide⟩

/-- Every answer of the checks is met. -/
theorem test_hyp_AcceptedOrRefusedAsChecked :
    stocked.Inv ∧ (Instr.rbCreate 15 65536).wf = true ∧
    refusalOf stocked (.rbCreate 15 65536) = none ∧
    refusalOf stocked (.rbCreate 15 65537) = some .eCapacity ∧
    refusalOf stocked (.fdnStep 1 0 0 0) = some .eNobuf ∧
    refusalOf (stocked.setMode .run) (.rbCreate 15 65537) = some .eMode :=
  ⟨stocked_inv, by decide⟩

theorem test_hyp_invariant_step :
    stocked.Inv ∧ ∃ t, step (hostSend [0x12000001, 1] stocked) = .next t :=
  ⟨stocked_inv, _, rfl⟩

/-! ### Resets and the SYS commands -/

theorem test_hyp_HardResetEffect : (driveReset false stocked).rstN = false := rfl

theorem test_hyp_ReadRegisterEffect :
    6 < (7 : BitVec 4).toNat ∧ 6 < (15 : BitVec 4).toNat := by decide

theorem test_hyp_ClearStatusEffect :
    (0x10 : Word).getLsbD 4 = true ∧ (0xFFFFFFEF : Word).getLsbD 4 = false := by decide

/-- Both transitions, and RUN to PREPARE by each of its three causes. -/
theorem test_hyp_ModeTransitions :
    (stocked.Inv ∧ stocked.mode = .prepare ∧
      (after stocked [0x03000000]).map (·.mode) = some .run) ∧
    ((stocked.setMode .run).Inv ∧ (after (stocked.setMode .run) [0x02000000]).map (·.mode) =
        some .prepare ∧
      (after (stocked.setMode .run) [0x01000000]).map (·.mode) = some .prepare ∧
      (after (driveReset false (stocked.setMode .run)) []).map (·.mode) = some .prepare) :=
  ⟨⟨stocked_inv, by decide⟩, running_inv, by decide⟩

theorem test_hyp_PrepareOnlyCommands :
    stocked.Inv ∧ (stocked.setMode .run).Inv ∧ (Instr.fdnBind 1 15 15 15 15).wf = true ∧
    prepareOnly (.fdnBind 1 15 15 15 15) = true ∧ (stocked.setMode .run).mode = .run ∧
    stocked.mode = .prepare ∧ (Instr.rbWrite 15 0).wf = true ∧
    prepareOnly (.rbWrite 15 0) = false :=
  ⟨stocked_inv, running_inv, by decide⟩

/-- A flag cleared by each of its three causes, and each source-derived flag set. -/
theorem test_hyp_FlagsAreSticky :
    (flagged.Inv ∧ flagged.hasFlag .fGain = true ∧
      (after flagged [0x05000001, 2]).map (·.hasFlag .fGain) = some false ∧
      (after flagged [0x01000000]).map (·.hasFlag .fGain) = some false ∧
      (after (driveReset false flagged) []).map (·.hasFlag .fGain) = some false) ∧
    (stocked.Inv ∧ stocked.status = 0 ∧
      (after stocked [0x13000001, 8]).map (·.hasFlag .fDelay) = some true ∧
      (after stocked [0x60000004, 0, 0, 0x3F800000, 0]).map (·.hasFlag .fGain) = some true ∧
      (after stocked [0x21000C00]).map (·.hasFlag .fShape) = some true ∧
      (after stocked [0x40000002, 0, 0]).map (·.hasFlag .fParam) = some true) :=
  ⟨⟨flagged_inv, by decide +kernel⟩, stocked_inv, by decide +kernel⟩

/-- Two states that differ in `STATUS` and the record alone. -/
theorem running_sameBut_flagged : SameBut [.status, .err] (stocked.setMode .run) flagged where
  rb _ := rfl
  fd _ := rfl
  osc _ := rfl
  sm _ := rfl
  fdn _ := rfl
  mode _ := rfl
  status h := absurd (by decide) h
  errInfo h := absurd (by decide) h
  errCode h := absurd (by decide) h
  pkt _ := rfl
  cmdIn _ := rfl
  rspOut _ := rfl
  rstN _ := rfl
  draw _ := rfl

theorem test_hyp_FlagsAreNeverInputs :
    (stocked.setMode .run).Inv ∧ SameBut [.status, .err] (stocked.setMode .run) flagged ∧
    (∃ t, exec (.rbReadi 0 8) (stocked.setMode .run) = .next t) ∧
    (∃ t, exec (.sysRdcsr .mode) (stocked.setMode .run) = .next t) :=
  ⟨running_inv, running_sameBut_flagged, ⟨_, rfl⟩, _, rfl⟩

/-- At the last instance of a unit, a capacity of 1, and with buffers that lines share. -/
theorem test_hyp_HotPath :
    stocked.Inv ∧ shared.Inv ∧
    (hotPath (.rbWrite 14 0) = true ∧ (Instr.rbWrite 14 0).wf = true ∧
      buffersReady stocked (.rbWrite 14 0) = true) ∧
    buffersReady stocked (.rbReadf 1 .hermite 0x7FC00000) = true ∧
    (hotPath (.fdnStep 1 0 0 0) = true ∧ (Instr.fdnStep 1 0 0 0).wf = true ∧
      buffersReady shared (.fdnStep 1 0 0 0) = true) ∧
    buffersReady stocked (.smProcess 15 .snap 0) = true :=
  ⟨stocked_inv, shared_inv, by decide⟩

theorem test_hyp_HotPathKeepsBufferShape :
    hotPath (.rbWrite 14 0) = true ∧ stocked.Inv ∧
      ∃ t, exec (.rbWrite 14 0) stocked = .next t :=
  ⟨rfl, stocked_inv, _, rfl⟩

theorem test_hyp_InstancesAreIndependent :
    stocked.Inv ∧ (Instr.rbWrite 0 1) ≠ .sysReset ∧ (∃ t, exec (.rbWrite 0 1) stocked = .next t) ∧
    namesRb stocked (.rbWrite 0 1) (rbNo 1) = false ∧
    namesRb shared (.fdnStep 1 0 0 0) (rbNo 1) = false ∧
    unitOf (.rbWrite 0 1) ≠ 2 ∧ (unitOf (.oscProcess 7 .sine 0 0 0) = 3 ∧
      (Instr.oscProcess 7 .sine 0 0 0).inst.toNat ≠ (oscNo 0).val) :=
  ⟨stocked_inv, by decide, ⟨_, rfl⟩, by decide⟩

/-! ### RB -/

theorem test_hyp_MemoryReadAfterWrite :
    let b := stocked.rbAt (rbNo 0)
    Memory.wf b.storage = true ∧ b.valid = true ∧ 7 < b.capacity.toNat ∧ 0 < b.capacity.toNat := by
  decide

theorem test_hyp_RbCreateEffect :
    (0x0F : Inst).toNat < thisHardware.nRB ∧ stocked.mode = .prepare ∧
    (0 : Word).toNat ≤ thisHardware.capMax ∧ (65536 : Word).toNat ≤ thisHardware.capMax ∧
    thisHardware.capMax < (65537 : Word).toNat ∧ (stocked.setMode .run).mode = .run := by decide

theorem test_hyp_RbDestroyEffect :
    (0x0F : Inst).toNat < thisHardware.nRB ∧ stocked.mode = .prepare ∧
    (stocked.setMode .run).mode = .run ∧ (stocked.rbAt (rbNo 15)).Inv ∧
    (stocked.rbAt (rbNo 15)).valid = false :=
  ⟨by decide, rfl, rfl, stocked_inv.rb _, by decide⟩

/-- For RB.WRITE, RB.READI, RB.READF, APF.PROCESS and COMB.PROCESS. -/
theorem test_hyp_buffer_commands :
    stocked.Inv ∧ (0x0E : Inst).toNat < thisHardware.nRB ∧ (stocked.rbAt (rbNo 14)).valid = true ∧
    (stocked.rbAt (rbNo 1)).valid = true ∧ (0x0F : Inst).toNat < thisHardware.nRB ∧
    (stocked.rbAt (rbNo 15)).valid = false :=
  ⟨stocked_inv, by decide⟩

theorem test_hyp_ReadReturnsHistory : (65536 : Word).toNat ≤ thisHardware.capMax := by decide

/-- The ends of each clause: NaN and the smallest negative value, 2^31, both zeros, the smallest
positive value and the largest below 2^31. -/
theorem test_hyp_SplitOfDelay :
    (isNaN 0x7FC00000 = true ∧ flt 0x80000001 fZero = true) ∧ fge 0x4F000000 0x4F000000 = true ∧
    (isZero 0 = true ∧ isZero 0x80000000 = true) ∧
    (fgt 0x00000001 fZero = true ∧ flt 0x00000001 0x4F000000 = true) ∧
    (fgt 0x4EFFFFFF fZero = true ∧ flt 0x4EFFFFFF 0x4F000000 = true) := by decide

theorem test_hyp_TruncatedReadIsIntegerRead :
    stocked.Inv ∧ (0x0E : Inst).toNat < thisHardware.nRB ∧ (stocked.rbAt (rbNo 14)).valid = true ∧
    (fge 0x80000000 fZero = true ∧ flt 0x80000000 0x4F000000 = true ∧
      (0 : Word).toNat * 2 ^ 149 ≤ ulps 0x80000000 ∧
      ulps 0x80000000 < ((0 : Word).toNat + 1) * 2 ^ 149) ∧
    (fge 0x4EFFFFFF fZero = true ∧ flt 0x4EFFFFFF 0x4F000000 = true ∧
      (0x7FFFFF80 : Word).toNat * 2 ^ 149 ≤ ulps 0x4EFFFFFF ∧
      ulps 0x4EFFFFFF < ((0x7FFFFF80 : Word).toNat + 1) * 2 ^ 149) :=
  ⟨stocked_inv, by decide +kernel⟩

theorem test_hyp_IntegralDelay :
    isFinite 0x7F7FFFFF = true ∧ isFinite 0x80000000 = true ∧ magBits 0xFB7FFFFF < 0x7B800000 := by
  decide

/-! ### FD, OSC and SM -/

theorem test_hyp_FdCommands :
    (7 : Inst).toNat < thisHardware.nFD ∧ formulaOf? otherHardware.fdDesign .bpf ≠ none ∧
    (0 : Inst).toNat < otherHardware.nFD ∧
    Shape.brf ∈ [Shape.brf, .peak, .lshelf, .hshelf, .parametric] ∧
    shapeWithoutFormula .flat = false ∧ shapeWithoutFormula .parametric = true := by
  exact ⟨by decide, Option.some_ne_none _, by decide⟩

theorem test_hyp_FilterWorkedExamples :
    (0 : Inst).toNat < thisHardware.nFD ∧ (exactCache.fdAt (fdNo 0)).sn = 0x3F800000 ∧
    (exactCache.fdAt (fdNo 0)).cs = 0 ∧ (exactCache.fdAt (fdNo 0)).q = 0x3F000000 := by decide

/-- For OSC.PROCESS, with a NaN phase and with the largest phase below 2π. -/
theorem test_hyp_OscProcess :
    (7 : Inst).toNat < thisHardware.nOSC ∧ isFinite 0x7F800000 = false ∧ isFinite 0xFFC00000 = false ∧
    isNaN ((stocked.setOsc (oscNo 7) ⟨0x7FC00000, 0, 0⟩).oscAt (oscNo 7)).phase = true ∧
    (otherHardware.oscPhaseWrap = false ∧ (255 : Inst).toNat < otherHardware.nOSC) ∧
    (isZero 0x80000000 = true ∧ isNaN 0xC73B8000 = false ∧ isZero 0xC73B8000 = false ∧
      isNaN 0x00000001 = false ∧ isZero 0x00000001 = false ∧
      fge ((stocked.setOsc (oscNo 7) ⟨0x40C90FDA, 0, 0⟩).oscAt (oscNo 7)).phase fZero = true ∧
      flt ((stocked.setOsc (oscNo 7) ⟨0x40C90FDA, 0, 0⟩).oscAt (oscNo 7)).phase 0x40C90FDB =
        true) := by decide

theorem test_hyp_FractionRange_WaveformRanges :
    isFinite 0xB3000000 = true ∧ isFinite 0x7F7FFFFF = true ∧ isFinite 0x7F800000 = false := by decide

theorem test_hyp_SmCommands :
    (15 : Inst).toNat < thisHardware.nSM ∧ (stocked.smAt (smNo 15)).a = 0 ∧
    (stocked.smAt (smNo 15)).b = 0x3F800000 ∧ isFinite (stocked.smAt (smNo 15)).z = true ∧
    isNaN 0x7F800000 = false := by decide

/-! ### FDN -/

theorem test_hyp_FdnBindEffect :
    (1 : Inst).toNat < thisHardware.nFDN ∧ stocked.mode = .prepare ∧ (stocked.setMode .run).mode = .run ∧
    ((15 : Word).toNat < thisHardware.nRB ∧ (0 : Word).toNat < thisHardware.nRB) ∧
    ¬ ((0 : Word).toNat < thisHardware.nRB ∧ (0 : Word).toNat < thisHardware.nRB ∧ (0 : Word).toNat < thisHardware.nRB ∧
      (16 : Word).toNat < thisHardware.nRB) := by decide

/-- For FDN.STEP and the parameter commands, with the four lines different and with shared ones. -/
theorem test_hyp_FdnStepEffect :
    (stocked.Inv ∧ (0 : Inst).toNat < thisHardware.nFDN ∧ (stocked.fdnAt (fdnNo 0)).bound = true ∧
      ∃ L : Fin 4 → Fin thisHardware.nRB,
        (∀ k : Fin 4, (stocked.fdnAt (fdnNo 0)).line[k].toNat = (L k).val) ∧
        ∀ k, (stocked.rbAt (L k)).valid = true) ∧
    (shared.Inv ∧ (1 : Inst).toNat < thisHardware.nFDN ∧ (shared.fdnAt (fdnNo 1)).bound = true ∧
      ∃ L : Fin 4 → Fin thisHardware.nRB,
        (∀ k : Fin 4, (shared.fdnAt (fdnNo 1)).line[k].toNat = (L k).val) ∧
        ∀ k, (shared.rbAt (L k)).valid = true) ∧
    (networkReady stocked 1 = false ∧ networkReady filled 0 = false) :=
  ⟨⟨stocked_inv, by decide, by decide, ![rbNo 0, rbNo 1, rbNo 2, rbNo 3], by decide, by decide⟩,
    ⟨shared_inv, by decide, by decide, ![rbNo 2, rbNo 2, rbNo 3, rbNo 3], by decide, by decide⟩,
    by decide⟩

/-! ### Numbers -/

/-- A sum that is not zero, one of `-0` and `-0`, a difference of equal values, a divisor that is not
zero, all finite. -/
theorem test_hyp_ArithmeticRoundsOnce :
    (isFinite 0x7F7FFFFF = true ∧ isFinite 0x00000001 = true ∧ isZero 0x00000001 = false ∧
      units 0x7F7FFFFF + units 0x00000001 ≠ 0 ∧ units 0x7F7FFFFF - units 0x00000001 ≠ 0) ∧
    (isFinite 0x80000000 = true ∧ units 0x80000000 + units 0x80000000 = 0) ∧
    units 0x7F7FFFFF - units 0x7F7FFFFF = 0 := by decide +kernel

theorem test_hyp_SpecialArithmetic :
    isNaN 0x7F800001 = true ∧ isInf 0x7F800000 = true ∧ isInf 0xFF800000 = true ∧
    signBit 0x7F800000 ≠ signBit 0xFF800000 ∧ isFinite 0x80000000 = true ∧
    isZero 0x80000000 = true ∧ (isFinite 0x00000001 = true ∧ isZero 0x00000001 = false) := by decide

theorem test_hyp_ExactPrimitives_TransProperties :
    isFinite 0xFF7FFFFF = true ∧ isNaN 0xFFFFFFFF = true ∧ isInf 0xFF800000 = true ∧
    isFinite 0x7F800000 = false ∧ fle (fabs 0xBF800000) 0x3F800000 = true ∧
    fle 0x80000000 fZero = true ∧ fgt (fabs 0xBF800001) 0x3F800000 = true := by decide

end Tests
end Machine
end Sys2Proof
end

section
/-! PROOFS. `roundUnits` is the rounding that 00_scope.md R13 asks for. The significand it keeps is the
quotient by its last place rounded to nearest, ties to even; the finite values above the least
significand with that last place are multiples of it, so none is nearer. -/

namespace Sys2Proof
namespace Machine

/-! ## Division rounded to the nearest integer -/

theorem roundDiv_spec (n : Nat) {D : Nat} (hD : 0 < D) :
    2 * (roundDiv n D * D) ≤ 2 * n + D ∧ 2 * n ≤ 2 * (roundDiv n D * D) + D ∧
      (2 * (roundDiv n D * D) = 2 * n + D ∨ 2 * n = 2 * (roundDiv n D * D) + D →
        roundDiv n D % 2 = 0) := by
  have hdiv : n / D * D + n % D = n := Nat.div_add_mod' n D
  have hmod := Nat.mod_lt n hD
  unfold roundDiv
  split_ifs with hlow htie
  · omega
  · omega
  · rw [Nat.add_one_mul (n / D)]
    refine ⟨by omega, by omega, fun h => ?_⟩
    have heq : 2 * (n % D) = D := by omega
    have hodd : ¬ n / D % 2 = 0 := fun he => htie ⟨heq, he⟩
    omega

theorem le_roundDiv {a n D : Nat} (hD : 0 < D) (h : a * D ≤ n) : a ≤ roundDiv n D := by
  obtain ⟨-, hup, -⟩ := roundDiv_spec n hD
  by_contra hlt
  have := Nat.mul_le_mul_right D (show roundDiv n D + 1 ≤ a by omega)
  rw [Nat.add_one_mul] at this
  omega

theorem roundDiv_le {a n D : Nat} (hD : 0 < D) (h : n ≤ a * D) : roundDiv n D ≤ a := by
  obtain ⟨hlow, -, -⟩ := roundDiv_spec n hD
  by_contra hlt
  have := Nat.mul_le_mul_right D (show a + 1 ≤ roundDiv n D by omega)
  rw [Nat.add_one_mul] at this
  omega

/-- A multiple of `D` other than the rounded one is at least as far, and as far only if the rounded
quotient is even. -/
theorem roundDiv_nearest {n D : Nat} (hD : 0 < D) {j : Nat} (hj : j ≠ roundDiv n D) :
    ((roundDiv n D * D : Nat) - (n : Int)).natAbs ≤ ((j * D : Nat) - (n : Int)).natAbs ∧
      (((roundDiv n D * D : Nat) - (n : Int)).natAbs = ((j * D : Nat) - (n : Int)).natAbs →
        roundDiv n D % 2 = 0) := by
  obtain ⟨hlow, hup, htie⟩ := roundDiv_spec n hD
  rcases Nat.lt_or_gt_of_ne hj with hlt | hgt
  · have := Nat.mul_le_mul_right D hlt
    rw [Nat.succ_mul] at this
    omega
  · have := Nat.mul_le_mul_right D hgt
    rw [Nat.succ_mul] at this
    omega

/-- From halfway below an even quotient on, rounding reaches it. -/
theorem le_roundDiv_iff_of_even {a n D : Nat} (hD : 0 < D) (ha : a % 2 = 0) :
    a ≤ roundDiv n D ↔ 2 * (a * D) ≤ 2 * n + D := by
  obtain ⟨hlow, hup, htie⟩ := roundDiv_spec n hD
  constructor
  · intro h
    have := Nat.mul_le_mul_right D h
    omega
  · intro h
    by_contra hlt
    have hstep := Nat.mul_le_mul_right D (show roundDiv n D + 1 ≤ a by omega)
    rw [Nat.add_one_mul] at hstep
    have heven : roundDiv n D % 2 = 0 := htie (by omega)
    have hgap := Nat.mul_le_mul_right D (show roundDiv n D + 2 ≤ a by omega)
    rw [Nat.add_mul] at hgap
    omega

/-! ## The value of the low 31 bits of a word -/

theorem getLsbD_zero_eq (x : F32) : x.getLsbD 0 = decide (magBits x % 2 = 1) := by
  rw [BitVec.getLsbD, Nat.testBit_zero]
  exact decide_eq_decide.2 (by unfold magBits; omega)

/-- The magnitude in units of 2^-149 that the bits `m` below the sign stand for, were the exponent
field unbounded. -/
def magUlps (m : Nat) : Nat :=
  if m / 2 ^ 23 = 0 then m else (2 ^ 23 + m % 2 ^ 23) * 2 ^ (m / 2 ^ 23 - 1)

theorem ulps_eq_magUlps (x : F32) : ulps x = magUlps (magBits x) := by
  have hfrac : fracField x = magBits x % 2 ^ 23 := by unfold fracField magBits; omega
  unfold ulps magUlps expField
  split_ifs with h
  · omega
  · rw [hfrac]

/-- A significand `r` above `k` dropped bits, in the form `roundUnits` writes it. -/
theorem magUlps_scaled {k r : Nat} (hr : r ≤ 2 ^ 24) (hk : k = 0 ∨ 2 ^ 23 ≤ r) :
    magUlps (k * 2 ^ 23 + r) = r * 2 ^ k := by
  unfold magUlps
  by_cases hcarry : r = 2 ^ 24
  · rw [if_neg (by omega), show (k * 2 ^ 23 + r) % 2 ^ 23 = 0 by omega,
      show (k * 2 ^ 23 + r) / 2 ^ 23 - 1 = k + 1 by omega, hcarry, pow_succ]
    ring
  · by_cases hsub : r < 2 ^ 23
    · obtain rfl : k = 0 := by omega
      rw [if_pos (by omega)]
      omega
    · rw [if_neg (by omega), show (k * 2 ^ 23 + r) / 2 ^ 23 - 1 = k by omega,
        show 2 ^ 23 + (k * 2 ^ 23 + r) % 2 ^ 23 = r by omega]

/-- Every magnitude is a significand of at most 24 bits above `k` dropped ones. -/
theorem exists_scaled (m : Nat) :
    ∃ k r, m = k * 2 ^ 23 + r ∧ r < 2 ^ 24 ∧ (k = 0 ∨ 2 ^ 23 ≤ r) := by
  by_cases h : m < 2 ^ 24
  · exact ⟨0, m, by omega, h, .inl rfl⟩
  · exact ⟨m / 2 ^ 23 - 1, 2 ^ 23 + m % 2 ^ 23, by omega, by omega, .inr (by omega)⟩

theorem magUlps_strictMono : StrictMono magUlps := by
  refine strictMono_nat_of_lt_succ fun m => ?_
  obtain ⟨k, r, rfl, hr, hk⟩ := exists_scaled m
  rw [Nat.add_assoc, magUlps_scaled (by omega) hk, magUlps_scaled (by omega) (by omega)]
  exact Nat.mul_lt_mul_of_pos_right (Nat.lt_succ_self r) (Nat.two_pow_pos k)

theorem ulps_lt_iff {x y : F32} : ulps x < ulps y ↔ magBits x < magBits y := by
  rw [ulps_eq_magUlps, ulps_eq_magUlps, magUlps_strictMono.lt_iff_lt]

/-- The largest finite value. -/
theorem ulps_le_of_isFinite {x : F32} (h : isFinite x = true) : ulps x ≤ (2 ^ 24 - 1) * 2 ^ 253 := by
  have hmag := isFinite_iff.1 h
  have htop : magUlps (253 * 2 ^ 23 + (2 ^ 24 - 1)) = (2 ^ 24 - 1) * 2 ^ 253 :=
    magUlps_scaled (by omega) (.inr (by omega))
  rw [ulps_eq_magUlps, ← htop]
  exact magUlps_strictMono.monotone (by omega)

/-- A value is a multiple of `2 ^ k` unless it lies below every significand with `k` bits dropped. -/
theorem two_pow_dvd_ulps_or_lt (x : F32) (k : Nat) : 2 ^ k ∣ ulps x ∨ ulps x < 2 ^ (23 + k) := by
  obtain ⟨e, r, hm, hr, he⟩ := exists_scaled (magBits x)
  rw [ulps_eq_magUlps, hm, magUlps_scaled (by omega) he]
  by_cases hle : k ≤ e
  · exact .inl (Dvd.dvd.mul_left (Nat.pow_dvd_pow 2 hle) r)
  · refine .inr ?_
    calc r * 2 ^ e < 2 ^ 24 * 2 ^ e := Nat.mul_lt_mul_of_pos_right hr (Nat.two_pow_pos e)
      _ = 2 ^ (24 + e) := (pow_add 2 24 e).symm
      _ ≤ 2 ^ (23 + k) := Nat.pow_le_pow_right (by decide) (by omega)

/-! ## The word `roundUnits` answers -/

/-- The number of bits `roundUnits` drops below the significand. -/
def roundShift (n d : Nat) : Nat := if n / d < 2 ^ 24 then 0 else Nat.log2 (n / d) - 23

/-- The low bits `roundUnits` answers where it does not overflow. -/
def roundedBits (n d : Nat) : Nat :=
  roundShift n d * 2 ^ 23 + roundDiv n (d * 2 ^ roundShift n d)

theorem roundUnits_eq_withSign (neg : Bool) (n d : Nat) :
    roundUnits neg n d = withSign neg (min (roundedBits n d) 0x7F800000) := rfl

theorem magBits_roundUnits (neg : Bool) (n d : Nat) :
    magBits (roundUnits neg n d) = min (roundedBits n d) 0x7F800000 := by
  rw [roundUnits_eq_withSign, magBits_withSign _ (by omega)]

theorem isFinite_roundUnits_iff {neg : Bool} {n d : Nat} :
    isFinite (roundUnits neg n d) = true ↔ roundedBits n d < 0x7F800000 := by
  rw [isFinite_iff, magBits_roundUnits]
  omega

theorem isInf_roundUnits_iff {neg : Bool} {n d : Nat} :
    isInf (roundUnits neg n d) = true ↔ 0x7F800000 ≤ roundedBits n d := by
  rw [isInf, decide_eq_true_eq, magBits_roundUnits]
  omega

section Shift

variable {n d : Nat} (hd : 0 < d)
include hd

theorem lt_of_roundShift : n < 2 ^ 24 * (d * 2 ^ roundShift n d) := by
  have hlt : n / d < 2 ^ (24 + roundShift n d) := by
    unfold roundShift
    split_ifs with h
    · exact h
    · have h24 : 24 ≤ Nat.log2 (n / d) := (Nat.le_log2 (by omega)).2 (by omega)
      rw [show 24 + (Nat.log2 (n / d) - 23) = Nat.log2 (n / d) + 1 by omega]
      exact Nat.lt_log2_self
  rw [Nat.mul_comm d, ← Nat.mul_assoc, ← pow_add]
  exact (Nat.div_lt_iff_lt_mul hd).1 hlt

theorem le_of_roundShift (hk : roundShift n d ≠ 0) : 2 ^ 23 * (d * 2 ^ roundShift n d) ≤ n := by
  have hbig : ¬ n / d < 2 ^ 24 := fun h => hk (if_pos h)
  have hlog : 24 ≤ Nat.log2 (n / d) := (Nat.le_log2 (by omega)).2 (by omega)
  have hle : 2 ^ (23 + roundShift n d) ≤ n / d := by
    rw [roundShift, if_neg hbig, show 23 + (Nat.log2 (n / d) - 23) = Nat.log2 (n / d) by omega]
    exact Nat.log2_self_le (by omega)
  rw [Nat.mul_comm d, ← Nat.mul_assoc, ← pow_add]
  exact (Nat.le_div_iff_mul_le hd).1 hle

theorem roundDiv_shift_le : roundDiv n (d * 2 ^ roundShift n d) ≤ 2 ^ 24 :=
  roundDiv_le (Nat.mul_pos hd (Nat.two_pow_pos _)) (lt_of_roundShift hd).le

theorem roundShift_eq_zero_or_le_roundDiv :
    roundShift n d = 0 ∨ 2 ^ 23 ≤ roundDiv n (d * 2 ^ roundShift n d) := by
  by_cases hk : roundShift n d = 0
  · exact .inl hk
  · exact .inr (le_roundDiv (Nat.mul_pos hd (Nat.two_pow_pos _)) (le_of_roundShift hd hk))

/-- The value of a rounded result that did not overflow. -/
theorem ulps_roundUnits {neg : Bool} (h : isFinite (roundUnits neg n d) = true) :
    ulps (roundUnits neg n d) =
      roundDiv n (d * 2 ^ roundShift n d) * 2 ^ roundShift n d := by
  have hbits := isFinite_roundUnits_iff.1 h
  rw [ulps_eq_magUlps, magBits_roundUnits, min_eq_left hbits.le, roundedBits,
    magUlps_scaled (roundDiv_shift_le hd) (roundShift_eq_zero_or_le_roundDiv hd)]

/-- The overflow threshold of R13: halfway past the largest finite value. -/
theorem le_roundedBits_iff :
    0x7F800000 ≤ roundedBits n d ↔ d * ((2 ^ 25 - 1) * 2 ^ 252) ≤ n := by
  have hD : 0 < d * 2 ^ roundShift n d := Nat.mul_pos hd (Nat.two_pow_pos _)
  have hr := roundDiv_shift_le (n := n) hd
  unfold roundedBits
  rcases Nat.lt_trichotomy (roundShift n d) 253 with hk | hk | hk
  · have hlt := lt_of_roundShift (n := n) hd
    have hpow : 2 ^ roundShift n d ≤ 2 ^ 252 := Nat.pow_le_pow_right (by decide) (by omega)
    have hmul := Nat.mul_le_mul_left d hpow
    exact iff_of_false (by omega) (by omega)
  · have hreach := le_roundDiv_iff_of_even (a := 2 ^ 24) (n := n) hD (by decide)
    rw [hk] at hreach hr ⊢
    omega
  · have hle := le_of_roundShift (n := n) hd (by omega)
    have hlow := le_roundDiv hD hle
    have hpow : 2 ^ 254 ≤ 2 ^ roundShift n d := Nat.pow_le_pow_right (by decide) hk
    refine iff_of_true (by omega) ?_
    calc d * ((2 ^ 25 - 1) * 2 ^ 252) ≤ d * (2 ^ 23 * 2 ^ 254) :=
          Nat.mul_le_mul_left d (by norm_num)
      _ ≤ d * (2 ^ 23 * 2 ^ roundShift n d) :=
          Nat.mul_le_mul_left d (Nat.mul_le_mul_left _ hpow)
      _ = 2 ^ 23 * (d * 2 ^ roundShift n d) := Nat.mul_left_comm _ _ _
      _ ≤ n := hle

/-- A finite value is a multiple of the last place of the rounded result, or lies below the least
significand with that last place, which the exact magnitude does not. -/
theorem ulps_grid_or_below (y : F32) :
    (∃ j, ulps y * d = j * (d * 2 ^ roundShift n d) ∧ ulps y = j * 2 ^ roundShift n d) ∨
      (ulps y * d < 2 ^ 23 * (d * 2 ^ roundShift n d) ∧
        2 ^ 23 * (d * 2 ^ roundShift n d) ≤ n) := by
  by_cases hdvd : 2 ^ roundShift n d ∣ ulps y
  · obtain ⟨j, hj⟩ := hdvd
    exact .inl ⟨j, by rw [hj]; ring, by rw [hj, Nat.mul_comm]⟩
  · have hlt := (two_pow_dvd_ulps_or_lt y (roundShift n d)).resolve_left hdvd
    have hk : roundShift n d ≠ 0 := fun h0 => hdvd (by rw [h0]; exact one_dvd _)
    refine .inr ⟨?_, le_of_roundShift hd hk⟩
    calc ulps y * d < 2 ^ (23 + roundShift n d) * d := Nat.mul_lt_mul_of_pos_right hlt hd
      _ = 2 ^ 23 * (d * 2 ^ roundShift n d) := by rw [pow_add]; ring

/-- No finite value is nearer the exact magnitude than the rounded result, and one as near leaves the
rounded significand even. -/
theorem roundUnits_nearest {neg : Bool} (h : isFinite (roundUnits neg n d) = true) (y : F32) :
    ((ulps (roundUnits neg n d) * d : Nat) - (n : Int)).natAbs ≤
        ((ulps y * d : Nat) - (n : Int)).natAbs ∧
      (ulps y ≠ ulps (roundUnits neg n d) →
        ((ulps (roundUnits neg n d) * d : Nat) - (n : Int)).natAbs =
            ((ulps y * d : Nat) - (n : Int)).natAbs →
          roundDiv n (d * 2 ^ roundShift n d) % 2 = 0) := by
  have hD : 0 < d * 2 ^ roundShift n d := Nat.mul_pos hd (Nat.two_pow_pos _)
  have hval : ulps (roundUnits neg n d) * d =
      roundDiv n (d * 2 ^ roundShift n d) * (d * 2 ^ roundShift n d) := by
    rw [ulps_roundUnits hd h]; ring
  rw [hval]
  rcases ulps_grid_or_below (n := n) hd y with ⟨j, hj, hju⟩ | ⟨hbelow, hn⟩
  · rw [hj]
    by_cases hne : j = roundDiv n (d * 2 ^ roundShift n d)
    · refine ⟨by rw [hne], fun hy => absurd ?_ hy⟩
      rw [hju, hne, ulps_roundUnits hd h]
    · obtain ⟨hnear, heven⟩ := roundDiv_nearest hD hne
      exact ⟨hnear, fun _ => heven⟩
  · by_cases heq : 2 ^ 23 = roundDiv n (d * 2 ^ roundShift n d)
    · rw [← heq]
      omega
    · obtain ⟨hnear, -⟩ := roundDiv_nearest hD heq
      omega

/-- R13: `roundUnits` is the one rounding of the magnitude `n / d`. -/
theorem isRounding_roundUnits (neg : Bool) : IsRounding (roundUnits neg n d) neg n d where
  sign := signBit_roundUnits neg n d
  notNaN := isNaN_roundUnits neg n d
  nearest h y _ := (roundUnits_nearest hd h y).1
  even h y _ hy heq := by
    have heven := (roundUnits_nearest hd h y).2 hy heq
    have hbits := isFinite_roundUnits_iff.1 h
    rw [getLsbD_zero_eq, magBits_roundUnits, min_eq_left hbits.le, decide_eq_false_iff_not,
      roundedBits]
    omega
  overflow := isInf_roundUnits_iff.trans (le_roundedBits_iff hd)

end Shift

end Machine
end Sys2Proof
end

section
/-! PROOFS. The arithmetic primitives on finite operands (00_scope.md R13, R14). -/

namespace Sys2Proof
namespace Machine

/-! ## Sums of finite values -/

theorem units_fneg (x : F32) : units (fneg x) = -units x := by
  have hulps : ulps (fneg x) = ulps x := by
    rw [ulps_eq_magUlps, ulps_eq_magUlps, magBits_fneg]
  unfold units
  rw [signBit_fneg, hulps]
  cases signBit x <;> simp

theorem fadd_of_isFinite (q : Word) {x y : F32} (hx : isFinite x = true) (hy : isFinite y = true) :
    fadd q x y =
      if units x + units y = 0 then (if signBit x && signBit y then fNegZero else fZero)
      else roundUnits (decide (units x + units y < 0)) (units x + units y).natAbs 1 := by
  simp [fadd, not_isNaN_of_isFinite hx, not_isNaN_of_isFinite hy, not_isInf_of_isFinite hx,
    not_isInf_of_isFinite hy]

theorem fadd_isRounding (q : Word) {x y : F32} (hx : isFinite x = true) (hy : isFinite y = true)
    (h : units x + units y ≠ 0) :
    IsRounding (fadd q x y) (decide (units x + units y < 0)) (units x + units y).natAbs 1 := by
  rw [fadd_of_isFinite q hx hy, if_neg h]
  exact isRounding_roundUnits Nat.one_pos _

theorem fadd_exact_zero (q : Word) {x y : F32} (hx : isFinite x = true) (hy : isFinite y = true)
    (h : units x + units y = 0) :
    fadd q x y = if signBit x && signBit y then fNegZero else fZero := by
  rw [fadd_of_isFinite q hx hy, if_pos h]

theorem fsub_isRounding (q : Word) {x y : F32} (hx : isFinite x = true) (hy : isFinite y = true)
    (h : units x - units y ≠ 0) :
    IsRounding (fsub q x y) (decide (units x - units y < 0)) (units x - units y).natAbs 1 := by
  have hsum : units x + units (fneg y) = units x - units y := by rw [units_fneg]; rfl
  rw [← hsum] at h ⊢
  exact fadd_isRounding q hx (by rwa [isFinite_fneg]) h

theorem fsub_exact_zero (q : Word) {x y : F32} (hx : isFinite x = true) (hy : isFinite y = true)
    (h : units x - units y = 0) :
    fsub q x y = if signBit x && !signBit y then fNegZero else fZero := by
  have hsum : units x + units (fneg y) = 0 := by rw [units_fneg]; exact h
  rw [fsub, fadd_exact_zero q hx (by rwa [isFinite_fneg]) hsum, signBit_fneg]

/-! ## Products, quotients and integers -/

theorem fmul_isRounding (q : Word) {x y : F32} (hx : isFinite x = true) (hy : isFinite y = true) :
    IsRounding (fmul q x y) (signBit x != signBit y) (ulps x * ulps y) (2 ^ 149) := by
  have heq : fmul q x y = roundUnits (signBit x != signBit y) (ulps x * ulps y) (2 ^ 149) := by
    simp [fmul, not_isNaN_of_isFinite hx, not_isNaN_of_isFinite hy, not_isInf_of_isFinite hx,
      not_isInf_of_isFinite hy]
  rw [heq]
  exact isRounding_roundUnits (Nat.two_pow_pos 149) _

theorem fdiv_isRounding (q : Word) {x y : F32} (hx : isFinite x = true) (hy : isFinite y = true)
    (hz : isZero y = false) :
    IsRounding (fdiv q x y) (signBit x != signBit y) (ulps x * 2 ^ 149) (ulps y) := by
  have heq : fdiv q x y = roundUnits (signBit x != signBit y) (ulps x * 2 ^ 149) (ulps y) := by
    simp [fdiv, not_isNaN_of_isFinite hx, not_isNaN_of_isFinite hy, not_isInf_of_isFinite hx,
      not_isInf_of_isFinite hy, hz]
  have hpos : 0 < ulps y := Nat.pos_of_ne_zero fun h0 => by
    rw [ulps_eq_zero.1 h0] at hz
    exact Bool.noConfusion hz
  rw [heq]
  exact isRounding_roundUnits hpos _

theorem u2f_isRounding (n : Word) : IsRounding (u2f n) false (n.toNat * 2 ^ 149) 1 :=
  isRounding_roundUnits Nat.one_pos false

/-- Settles O57: each operation is one `roundUnits` of its exact result, which is a rounding
(`isRounding_roundUnits`). -/
theorem arithmeticRoundsOnce : Obligations.ArithmeticRoundsOnce := by
  intro q x y hx hy
  exact ⟨fadd_isRounding q hx hy, fadd_exact_zero q hx hy, fsub_isRounding q hx hy,
    fsub_exact_zero q hx hy, fmul_isRounding q hx hy, fdiv_isRounding q hx hy, u2f_isRounding⟩

end Machine
end Sys2Proof
end

section
/-! PROOFS. The arithmetic primitives on NaNs, infinities and zero divisors (00_scope.md R13). -/

namespace Sys2Proof
namespace Machine

theorem isInf_iff {x : F32} : isInf x = true ↔ magBits x = 0x7F800000 := by simp [isInf]

theorem not_isNaN_of_isInf {x : F32} (h : isInf x = true) : isNaN x = false := by
  have := isInf_iff.1 h
  simp only [isNaN, decide_eq_false_iff_not]; omega

theorem not_isZero_of_isInf {x : F32} (h : isInf x = true) : isZero x = false := by
  have := isInf_iff.1 h
  simp only [isZero, decide_eq_false_iff_not]; omega

theorem isFinite_of_isZero {x : F32} (h : isZero x = true) : isFinite x = true := by
  have h0 : magBits x = 0 := by simpa [isZero] using h
  exact isFinite_iff.2 (by omega)

theorem not_isZero_of_isNaN {x : F32} (h : isNaN x = true) : isZero x = false := by
  simp only [isNaN, decide_eq_true_eq] at h
  simp only [isZero, decide_eq_false_iff_not]; omega

theorem isZero_withSign (neg : Bool) : isZero (withSign neg 0) = true := by
  cases neg <;> rfl

section Infinite

variable (q : Word) {x y : F32}

theorem fadd_inf_inf (hx : isInf x = true) (hy : isInf y = true) :
    fadd q x y = if signBit x = signBit y then x else nanOf q := by
  simp [fadd, not_isNaN_of_isInf hx, not_isNaN_of_isInf hy, hx, hy]

theorem fadd_inf_finite (hx : isInf x = true) (hy : isFinite y = true) : fadd q x y = x := by
  simp [fadd, not_isNaN_of_isInf hx, not_isNaN_of_isFinite hy, hx, not_isInf_of_isFinite hy]

theorem fadd_finite_inf (hx : isFinite x = true) (hy : isInf y = true) : fadd q x y = y := by
  simp [fadd, not_isNaN_of_isInf hy, not_isNaN_of_isFinite hx, hy, not_isInf_of_isFinite hx]

theorem fmul_inf_left (hx : isInf x = true) (hy : isNaN y = false) :
    fmul q x y = if isZero y then nanOf q else fInf (signBit x != signBit y) := by
  simp [fmul, not_isNaN_of_isInf hx, hy, hx, not_isZero_of_isInf hx]

theorem fmul_inf_right (hx : isNaN x = false) (hy : isInf y = true) :
    fmul q x y = if isZero x then nanOf q else fInf (signBit x != signBit y) := by
  simp [fmul, not_isNaN_of_isInf hy, hx, hy, not_isZero_of_isInf hy]

theorem fdiv_inf_left (hx : isInf x = true) (hy : isNaN y = false) :
    fdiv q x y = if isInf y then nanOf q else fInf (signBit x != signBit y) := by
  simp [fdiv, not_isNaN_of_isInf hx, hy, hx]

theorem fdiv_finite_inf (hx : isFinite x = true) (hy : isInf y = true) :
    fdiv q x y = withSign (signBit x != signBit y) 0 := by
  simp [fdiv, not_isNaN_of_isInf hy, not_isNaN_of_isFinite hx, hy, not_isInf_of_isFinite hx]

theorem fdiv_by_zero (hx : isFinite x = true) (hy : isZero y = true) :
    fdiv q x y = if isZero x then nanOf q else fInf (signBit x != signBit y) := by
  have hfin := isFinite_of_isZero hy
  simp [fdiv, not_isNaN_of_isFinite hx, not_isNaN_of_isFinite hfin, not_isInf_of_isFinite hx,
    not_isInf_of_isFinite hfin, hy]

theorem arithmetic_nan (h : isNaN x = true ∨ isNaN y = true) :
    fadd q x y = nanOf q ∧ fsub q x y = nanOf q ∧ fmul q x y = nanOf q ∧ fdiv q x y = nanOf q := by
  rcases h with h | h
  · exact ⟨fadd_nan_left q y h, fadd_nan_left q (fneg y) h, fmul_nan_left q y h,
      fdiv_nan_left q y h⟩
  · exact ⟨fadd_nan_right q x h, fadd_nan_right q x (by rwa [isNaN_fneg]), fmul_nan_right q x h,
      fdiv_nan_right q x h⟩

theorem arithmetic_inf_inf (hx : isInf x = true) (hy : isInf y = true) :
    fdiv q x y = nanOf q ∧ fmul q x y = fInf (signBit x != signBit y) ∧
      (signBit x = signBit y → fsub q x y = nanOf q ∧ fadd q x y = x) ∧
      (signBit x ≠ signBit y → fadd q x y = nanOf q ∧ fsub q x y = x) := by
  have hny := not_isNaN_of_isInf hy
  have hsub : fsub q x y = if signBit x = !signBit y then x else nanOf q := by
    rw [fsub, fadd_inf_inf q hx (by rwa [isInf_fneg]), signBit_fneg]
  refine ⟨by rw [fdiv_inf_left q hx hny, if_pos hy],
    by rw [fmul_inf_left q hx hny, not_isZero_of_isInf hy]; rfl, fun hs => ?_, fun hs => ?_⟩
  · rw [hsub, fadd_inf_inf q hx hy, if_pos hs, hs]
    exact ⟨if_neg (by simp), rfl⟩
  · rw [hsub, fadd_inf_inf q hx hy, if_neg hs]
    exact ⟨rfl, if_pos (Bool.eq_not_of_ne hs)⟩

theorem arithmetic_inf_finite (hx : isInf x = true) (hy : isFinite y = true) :
    fadd q x y = x ∧ fadd q y x = x ∧ fsub q x y = x ∧ fsub q y x = fneg x ∧
      fdiv q x y = fInf (signBit x != signBit y) ∧
      isZero (fdiv q y x) = true ∧ signBit (fdiv q y x) = (signBit y != signBit x) ∧
      (isZero y = true → fmul q x y = nanOf q ∧ fmul q y x = nanOf q) ∧
      (isZero y = false → fmul q x y = fInf (signBit x != signBit y) ∧
        fmul q y x = fInf (signBit y != signBit x)) := by
  have hny := not_isNaN_of_isFinite hy
  refine ⟨fadd_inf_finite q hx hy, fadd_finite_inf q hy hx,
    fadd_inf_finite q hx (by rwa [isFinite_fneg]), fadd_finite_inf q hy (by rwa [isInf_fneg]),
    ?_, ?_, ?_, fun hz => ?_, fun hz => ?_⟩
  · rw [fdiv_inf_left q hx hny, not_isInf_of_isFinite hy]
    rfl
  · rw [fdiv_finite_inf q hy hx, isZero_withSign]
  · rw [fdiv_finite_inf q hy hx, signBit_withSign _ (by decide)]
  · rw [fmul_inf_left q hx hny, fmul_inf_right q hny hx, hz]
    exact ⟨rfl, rfl⟩
  · rw [fmul_inf_left q hx hny, fmul_inf_right q hny hx, hz]
    exact ⟨rfl, rfl⟩

end Infinite

/-- Settles O58, class by class of the two operands. -/
theorem specialArithmetic : Obligations.SpecialArithmetic := by
  refine ⟨fun w => ⟨isNaN_nanOf w, nanOf_of_isNaN⟩, fun q x y => ⟨arithmetic_nan q,
    arithmetic_inf_inf q, arithmetic_inf_finite q, fun hx hy => ?_, fun hx hnz hy => ?_⟩⟩
  · rw [fdiv_by_zero q (isFinite_of_isZero hx) hy, if_pos hx]
  · rw [fdiv_by_zero q hx hy, hnz]
    rfl

end Machine
end Sys2Proof
end

section
/-! PROOFS. The exact primitives: comparisons, sign operations and `ffloor` (00_scope.md R14). -/

namespace Sys2Proof
namespace Machine

/-! ## Comparisons -/

theorem orderKey_lt_iff {x y : F32} : orderKey x < orderKey y ↔ units x < units y := by
  have hlt := ulps_lt_iff (x := x) (y := y)
  have hgt := ulps_lt_iff (x := y) (y := x)
  have hx : ulps x = 0 ↔ magBits x = 0 := by rw [ulps_eq_zero]; simp [isZero]
  have hy : ulps y = 0 ↔ magBits y = 0 := by rw [ulps_eq_zero]; simp [isZero]
  unfold orderKey units
  split_ifs <;> omega

section Compare

variable {x y : F32}

theorem flt_of_not_nan (hx : isNaN x = false) (hy : isNaN y = false) :
    flt x y = decide (orderKey x < orderKey y) := by simp [flt, hx, hy]

theorem fle_of_not_nan (hx : isNaN x = false) (hy : isNaN y = false) :
    fle x y = !flt y x := by
  simp [fle, flt, hx, hy, ← decide_not]

theorem feq_of_not_nan (hx : isNaN x = false) (hy : isNaN y = false) :
    feq x y = (fle x y && fle y x) := by
  rw [Bool.eq_iff_iff]
  simp [feq, fle, hx, hy, le_antisymm_iff]

theorem flt_of_isFinite (hx : isFinite x = true) (hy : isFinite y = true) :
    flt x y = decide (units x < units y) := by
  rw [flt_of_not_nan (not_isNaN_of_isFinite hx) (not_isNaN_of_isFinite hy)]
  exact decide_eq_decide.2 orderKey_lt_iff

theorem fle_of_isFinite (hx : isFinite x = true) (hy : isFinite y = true) :
    fle x y = decide (units x ≤ units y) := by
  rw [fle_of_not_nan (not_isNaN_of_isFinite hx) (not_isNaN_of_isFinite hy), flt_of_isFinite hy hx,
    ← decide_not]
  exact decide_eq_decide.2 not_lt

theorem feq_of_isFinite (hx : isFinite x = true) (hy : isFinite y = true) :
    feq x y = decide (units x = units y) := by
  rw [feq_of_not_nan (not_isNaN_of_isFinite hx) (not_isNaN_of_isFinite hy), fle_of_isFinite hx hy,
    fle_of_isFinite hy hx, ← Bool.decide_and]
  exact decide_eq_decide.2 le_antisymm_iff.symm

theorem compare_nan (h : isNaN x = true ∨ isNaN y = true) :
    flt x y = false ∧ fle x y = false ∧ fgt x y = false ∧ fge x y = false ∧ feq x y = false := by
  rcases h with h | h <;> simp [flt, fle, fgt, fge, feq, h]

theorem flt_inf_finite (hx : isInf x = true) (hy : isFinite y = true) : flt x y = signBit x := by
  have hmx := isInf_iff.1 hx
  have hmy := isFinite_iff.1 hy
  rw [flt_of_not_nan (not_isNaN_of_isInf hx) (not_isNaN_of_isFinite hy)]
  unfold orderKey
  cases signBit x <;> cases signBit y <;> simp <;> omega

theorem flt_finite_inf (hx : isFinite x = true) (hy : isInf y = true) : flt x y = !signBit y := by
  have hmx := isFinite_iff.1 hx
  have hmy := isInf_iff.1 hy
  rw [flt_of_not_nan (not_isNaN_of_isFinite hx) (not_isNaN_of_isInf hy)]
  unfold orderKey
  cases signBit x <;> cases signBit y <;> simp <;> omega

theorem flt_inf_inf (hx : isInf x = true) (hy : isInf y = true) :
    flt x y = (signBit x && !signBit y) := by
  rw [flt_of_not_nan (not_isNaN_of_isInf hx) (not_isNaN_of_isInf hy)]
  unfold orderKey
  rw [isInf_iff.1 hx, isInf_iff.1 hy]
  cases signBit x <;> cases signBit y <;> rfl

theorem compare_inf_finite (hx : isInf x = true) (hy : isFinite y = true) :
    flt x y = signBit x ∧ flt y x = !signBit x ∧ fle x y = signBit x ∧ fle y x = !signBit x ∧
      fgt x y = !signBit x ∧ fgt y x = signBit x ∧ fge x y = !signBit x ∧ fge y x = signBit x ∧
      feq x y = false ∧ feq y x = false := by
  have hnx := not_isNaN_of_isInf hx
  have hny := not_isNaN_of_isFinite hy
  have hlt := flt_inf_finite hx hy
  have hgt := flt_finite_inf hy hx
  have hle : fle x y = signBit x := by rw [fle_of_not_nan hnx hny, hgt, Bool.not_not]
  have hge : fle y x = !signBit x := by rw [fle_of_not_nan hny hnx, hlt]
  refine ⟨hlt, hgt, hle, hge, hgt, hlt, hge, hle, ?_, ?_⟩
  · rw [feq_of_not_nan hnx hny, hle, hge, Bool.and_not_self]
  · rw [feq_of_not_nan hny hnx, hle, hge, Bool.not_and_self]

theorem compare_inf_inf (hx : isInf x = true) (hy : isInf y = true) :
    flt x y = (signBit x && !signBit y) ∧ fle x y = (signBit x || !signBit y) ∧
      fgt x y = (!signBit x && signBit y) ∧ fge x y = (!signBit x || signBit y) ∧
      feq x y = (signBit x == signBit y) := by
  have hnx := not_isNaN_of_isInf hx
  have hny := not_isNaN_of_isInf hy
  rw [fgt, fge, feq_of_not_nan hnx hny, fle_of_not_nan hnx hny, fle_of_not_nan hny hnx,
    flt_inf_inf hx hy, flt_inf_inf hy hx]
  cases signBit x <;> cases signBit y <;> decide

end Compare

/-! ## Sign operations and `ffloor` -/

theorem signBit_fabs (x : F32) : signBit (fabs x) = false := by
  simp [signBit, fabs]

@[simp] theorem magBits_fabs (x : F32) : magBits (fabs x) = magBits x := by
  unfold magBits fabs
  rw [BitVec.toNat_and, show (0x7FFFFFFF : F32).toNat = 2 ^ 31 - 1 from rfl,
    Nat.and_two_pow_sub_one_eq_mod, Nat.mod_mod]

/-- The integral magnitudes next to a finite value, below or above it, need no rounding. -/
theorem two_pow_roundShift_dvd {x : F32} {c : Nat} (hc : 2 ^ 149 ∣ c)
    (hlow : c < ulps x + 2 ^ 149) (hup : ulps x < c + 2 ^ 149) : 2 ^ roundShift c 1 ∣ c := by
  by_cases hk : roundShift c 1 ≤ 149
  · exact (Nat.pow_dvd_pow 2 hk).trans hc
  · have hint : 2 ^ 149 ∣ 2 ^ roundShift c 1 := Nat.pow_dvd_pow 2 (by omega)
    have hge : 2 ^ 23 * 2 ^ roundShift c 1 ≤ c := by
      simpa using le_of_roundShift (n := c) Nat.one_pos (by omega)
    rcases two_pow_dvd_ulps_or_lt x (roundShift c 1) with hdvd | hlt
    · have heq : c = ulps x := by
        have := hint.trans hdvd
        omega
      rwa [← heq] at hdvd
    · rw [pow_add] at hlt
      exact Dvd.intro_left (2 ^ 23) (by omega)

/-- An integral magnitude next to a finite value rounds to itself. -/
theorem roundUnits_integral (neg : Bool) {x : F32} (hx : isFinite x = true) {N : Nat}
    (hlow : N * 2 ^ 149 < ulps x + 2 ^ 149) (hup : ulps x < N * 2 ^ 149 + 2 ^ 149) :
    isFinite (roundUnits neg (N * 2 ^ 149) 1) = true ∧
      units (roundUnits neg (N * 2 ^ 149) 1) = if neg then -(N * 2 ^ 149 : Int) else N * 2 ^ 149 := by
  have hfin : isFinite (roundUnits neg (N * 2 ^ 149) 1) = true := by
    have hmax := ulps_le_of_isFinite hx
    have hover := le_roundedBits_iff (n := N * 2 ^ 149) Nat.one_pos
    rw [isFinite_roundUnits_iff]
    omega
  obtain ⟨j, hj⟩ := two_pow_roundShift_dvd (Dvd.intro_left N rfl) hlow hup
  have hval : ulps (roundUnits neg (N * 2 ^ 149) 1) = N * 2 ^ 149 := by
    rw [ulps_roundUnits Nat.one_pos hfin, Nat.one_mul]
    generalize roundShift (N * 2 ^ 149) 1 = k at hj
    rw [hj, Nat.mul_comm (2 ^ k) j, roundDiv_mul j (Nat.two_pow_pos k)]
  refine ⟨hfin, ?_⟩
  rw [units, signBit_roundUnits, hval, Nat.cast_mul, Nat.cast_pow, Nat.cast_ofNat]

theorem ffloor_passes {x : F32} (h : isFinite x = false ∨ isZero x = true) : ffloor x = x := by
  have hpass : (isNaN x || isInf x || isZero x) = true := by
    rcases h with h | h
    · rcases float_cases x with hn | hi | hf
      · simp [hn]
      · simp [hi]
      · rw [hf] at h; exact Bool.noConfusion h
    · simp [h]
  rw [ffloor, if_pos hpass]

theorem ffloor_of_isFinite {x : F32} (hx : isFinite x = true) (hz : isZero x = false) :
    ffloor x =
      if signBit x then roundUnits true ((ulps x + (2 ^ 149 - 1)) / 2 ^ 149 * 2 ^ 149) 1
      else roundUnits false (ulps x / 2 ^ 149 * 2 ^ 149) 1 := by
  simp [ffloor, not_isNaN_of_isFinite hx, not_isInf_of_isFinite hx, hz]

/-- `ffloor` of a finite value is the largest integer not above it, exactly. -/
theorem ffloor_spec {x : F32} (hx : isFinite x = true) :
    isFinite (ffloor x) = true ∧
      ∃ k : Int, units (ffloor x) = k * 2 ^ 149 ∧ k * 2 ^ 149 ≤ units x ∧
        units x < (k + 1) * 2 ^ 149 := by
  by_cases hz : isZero x = true
  · have hunits : units x = 0 := by simp [units, ulps_eq_zero.2 hz]
    rw [ffloor_passes (.inr hz), hunits]
    exact ⟨hx, 0, by decide⟩
  · rw [ffloor_of_isFinite hx (by simpa using hz)]
    cases hs : signBit x
    · obtain ⟨hfin, hval⟩ := roundUnits_integral false hx (N := ulps x / 2 ^ 149)
        (by omega) (by omega)
      have hux : units x = ulps x := by simp [units, hs]
      rw [if_neg Bool.false_ne_true] at hval
      exact ⟨hfin, (ulps x / 2 ^ 149 : Nat), hval, by omega, by omega⟩
    · obtain ⟨hfin, hval⟩ := roundUnits_integral true hx (N := (ulps x + (2 ^ 149 - 1)) / 2 ^ 149)
        (by omega) (by omega)
      have hux : units x = -(ulps x : Int) := by simp [units, hs]
      rw [if_pos rfl, ← Int.neg_mul] at hval
      exact ⟨hfin, -((ulps x + (2 ^ 149 - 1)) / 2 ^ 149 : Nat), hval, by omega, by omega⟩

/-- Settles O59: comparing order keys is comparing values (`orderKey_lt_iff`), and the integer `ffloor`
looks for is a binary32 (`roundUnits_integral`). -/
theorem exactPrimitives : Obligations.ExactPrimitives := fun x y =>
  ⟨fun (hx : isFinite x = true) (hy : isFinite y = true) =>
    ⟨flt_of_isFinite hx hy, fle_of_isFinite hx hy, flt_of_isFinite hy hx,
      fle_of_isFinite hy hx, feq_of_isFinite hx hy⟩,
    compare_nan, compare_inf_finite, compare_inf_inf, ⟨signBit_fneg x, magBits_fneg x⟩,
    ⟨signBit_fabs x, magBits_fabs x⟩, ffloor_spec, ffloor_passes⟩

end Machine
end Sys2Proof
end

section
/-! PROOFS. The named properties of `TRANS` (00_scope.md R16). -/

namespace Sys2Proof
namespace Machine

theorem fle_iff {x y : F32} :
    fle x y = true ↔ isNaN x = false ∧ isNaN y = false ∧ orderKey x ≤ orderKey y := by
  simp [fle, and_assoc]

theorem fabs_of_isZero {x : F32} (h : isZero x = true) : fabs x = fZero := by
  have hmag : magBits x = 0 := by simpa [isZero] using h
  exact eq_of_sign_mag (signBit_fabs x) (by rw [magBits_fabs, hmag]; rfl)

@[simp] theorem isNaN_fabs (x : F32) : isNaN (fabs x) = isNaN x := by simp [isNaN]

theorem fle_fabs_boundedBy {bound : F32} (hb : fle (fabs fZero) bound = true) (r : F32) :
    fle (fabs (boundedBy bound r)) bound = true := by
  unfold boundedBy
  split_ifs with h
  · exact h
  · exact hb

section Trans

variable (q : Word) {x : F32}

theorem fsin_range (h : isFinite x = true) : fle (fabs (fsin q x)) fOne = true := by
  simp only [fsin, not_isNaN_of_isFinite h, not_isInf_of_isFinite h, Bool.or_self, Bool.false_eq_true,
    if_false]
  split_ifs with hz
  · rw [fabs_of_isZero hz]; rfl
  · exact fle_fabs_boundedBy rfl _

theorem fcos_range (h : isFinite x = true) : fle (fabs (fcos q x)) fOne = true := by
  simp only [fcos, not_isNaN_of_isFinite h, not_isInf_of_isFinite h, Bool.or_self, Bool.false_eq_true,
    if_false]
  split_ifs with hz
  · rfl
  · exact fle_fabs_boundedBy rfl _

theorem fasin_range (h : fle (fabs x) fOne = true) : fle (fabs (fasin q x)) fHalfPi = true := by
  unfold fasin
  split_ifs with hz
  · rw [fabs_of_isZero hz]; rfl
  · exact fle_fabs_boundedBy rfl _

theorem fexp_range (h : fle x fZero = true) :
    fge (fexp q x) fZero = true ∧ fle (fexp q x) fOne = true := by
  obtain ⟨hnan, -, -⟩ := fle_iff.1 h
  simp only [fexp, hnan, h, if_true, Bool.false_eq_true, if_false]
  split_ifs with hz hinf hraw
  · exact ⟨rfl, rfl⟩
  · exact ⟨rfl, rfl⟩
  · exact Bool.and_eq_true_iff.1 hraw
  · exact ⟨rfl, rfl⟩

theorem isNaN_fasin_of_not_fle (hz : isZero x = false) (h : fle (fabs x) fOne = false) :
    isNaN (fasin q x) = true := by
  simp [fasin, hz, h]

theorem trans_nan (h : isNaN x = true) :
    isNaN (fsin q x) = true ∧ isNaN (fcos q x) = true ∧ isNaN (fasin q x) = true ∧
      isNaN (fexp q x) = true ∧ isNaN (fpow10 q x) = true := by
  have hle : fle (fabs x) fOne = false := by simp [fle, h]
  exact ⟨by simp [fsin, h], by simp [fcos, h],
    isNaN_fasin_of_not_fle q (not_isZero_of_isNaN h) hle, by simp [fexp, h], by simp [fpow10, h]⟩

theorem fsin_fcos_inf (h : isInf x = true) :
    isNaN (fsin q x) = true ∧ isNaN (fcos q x) = true := by
  simp [fsin, fcos, h]

theorem isNaN_fasin_of_beyond_one (h : fgt (fabs x) fOne = true) : isNaN (fasin q x) = true := by
  have hz : isZero x = false := by
    by_contra hz
    rw [fabs_of_isZero (by simpa using hz)] at h
    exact absurd h (by decide)
  refine isNaN_fasin_of_not_fle q hz ?_
  by_contra hle
  obtain ⟨hx, h1, -⟩ := fle_iff.1 (by simpa using hle)
  rw [fle_of_not_nan hx h1, show flt fOne (fabs x) = true from h] at hle
  exact hle rfl

end Trans

/-- Settles O60: each property from the branch of the function that imposes it. -/
theorem transProperties : Obligations.TransProperties := fun q _ =>
  ⟨⟨rfl, rfl⟩, fun h => ⟨fsin_range q h, fcos_range q h⟩, ⟨rfl, rfl⟩, ⟨rfl, rfl⟩, fasin_range q,
    ⟨rfl, rfl, rfl⟩, fexp_range q, ⟨rfl, rfl⟩, trans_nan q, fsin_fcos_inf q,
    isNaN_fasin_of_beyond_one q⟩

end Machine
end Sys2Proof
end

section
/-! PROOFS. A step on a packet that decodes to a command (00_scope.md R5, 30_encoding.md R92). -/

namespace Sys2Proof
namespace Machine

theorem Opcode.narg_le_kept (o : Opcode) : o.narg.toNat ≤ keptOperands := by
  cases o <;> decide

theorem nargOf_le_kept_of_decode {w : Word} {args : List Word} {i : Instr}
    (h : decode w args = .ok i) : nargOf w ≤ keptOperands := by
  unfold decode at h
  split at h
  · exact absurd h (by simp)
  · next o _ =>
    split_ifs at h with hn
    rw [nargOf, not_not.1 hn]
    exact Opcode.narg_le_kept o

theorem decodePacket_eq_command {words rest : List Word} {i : Instr}
    (h : decodePacket words = .command i rest) :
    ∃ w ws, words = w :: ws ∧ nargOf w ≤ ws.length ∧ decode w (ws.take (nargOf w)) = .ok i ∧
      rest = ws.drop (nargOf w) := by
  cases words with
  | nil => exact absurd h (by simp [decodePacket])
  | cons w ws =>
    rw [decodePacket] at h
    split_ifs at h with hlen
    split at h
    · exact absurd h (by simp)
    · next j hj =>
      obtain ⟨rfl, rfl⟩ := Decoded.command.inj h
      exact ⟨w, ws, rfl, by omega, hj, rfl⟩

theorem keepOperands_of_length_le {ws : List Word} (h : ws.length ≤ keptOperands) :
    keepOperands [] ws = ws := by
  simpa [keepOperands] using h

theorem receive_of_decodePacket {words rest : List Word} {i : Instr}
    (h : decodePacket words = .command i rest) :
    ∃ w args, receive PacketBuf.empty words = .packet w args rest ∧ decode w args = .ok i := by
  obtain ⟨w, ws, rfl, hlen, hdec, rfl⟩ := decodePacket_eq_command h
  have hkept : (ws.take (nargOf w)).length ≤ keptOperands := by
    rw [List.length_take]
    have := nargOf_le_kept_of_decode hdec
    omega
  refine ⟨w, ws.take (nargOf w), ?_, hdec⟩
  rw [receive_empty, if_neg (by omega), keepOperands_of_length_le hkept]

theorem afterPacket_of_pkt_empty {P : Params} {s : State P} (h : s.pkt = PacketBuf.empty)
    (rest : List Word) : s.afterPacket rest = s.setCmdIn rest := by
  unfold State.afterPacket State.setPkt
  rw [← h]

theorem runPacket_of_decode {run : Instr → State → Result} {w : Word} {args : List Word} {i : Instr}
    (h : decode w args = .ok i) (s : State) : runPacket run w args s = run i s := by
  rw [runPacket, h]

/-- Settles O5: what decodes is what receiving hands over, since a command has no operand word past
those that are kept. -/
theorem stepRunsDecodedCommand : Obligations.StepRunsDecodedCommand := by
  intro s i rest hrst hpkt hdec
  obtain ⟨w, args, hrecv, hcmd⟩ := receive_of_decodePacket hdec
  calc step s = runPacket exec w args (s.afterPacket rest) :=
        stepWith_packet hrst (by rw [hpkt, hrecv])
    _ = exec i (s.afterPacket rest) := runPacket_of_decode hcmd _
    _ = exec i (s.setCmdIn rest) := by rw [afterPacket_of_pkt_empty hpkt]

end Machine
end Sys2Proof
end

section
/-! PROOFS. The state after reset (10_state.md R65) meets the invariant. -/

namespace Sys2Proof
namespace Machine

variable {P : Params}

theorem FdnInst.reset_inv : FdnInst.reset.Inv P := by
  intro k
  have hline : FdnInst.reset.line[k] = 0 := Vector.getElem_replicate _
  rw [hline]
  exact P.nRB_bounds.1

theorem PacketBuf.empty_inv : PacketBuf.empty.Inv :=
  ⟨fun _ => rfl, fun _ h => absurd h (by simp [PacketBuf.empty])⟩

theorem State.resetFor_inv : (State.resetFor P).Inv where
  rb i := by rw [State.resetFor_rbAt]; exact RbInst.reset_inv
  fdn i := by rw [State.resetFor_fdnAt]; exact FdnInst.reset_inv
  err _ := ⟨rfl, rfl⟩
  pkt := PacketBuf.empty_inv

theorem resetState_inv (s : State P) : (resetState s).Inv :=
  State.resetFor_inv.congr rfl rfl rfl rfl rfl rfl

theorem hardReset_inv (s : State P) : (hardReset s).Inv :=
  State.resetFor_inv.congr rfl rfl rfl rfl rfl rfl

/-- Settles O10. -/
theorem resetMeetsInvariant : Obligations.ResetMeetsInvariant := State.resetFor_inv

theorem State.resetFor_atReset : AtReset (State.resetFor P) where
  mode := rfl
  status := rfl
  errInfo := rfl
  errCode := rfl
  rb j := by rw [State.resetFor_rbAt]; exact ⟨rfl, rfl, rfl, rfl⟩
  fd j := State.resetFor_fdAt j
  osc j := State.resetFor_oscAt j
  sm j := State.resetFor_smAt j
  bound j := by
    rw [State.resetFor_fdnAt]
    exact ⟨rfl, fun k => ⟨Vector.getElem_replicate _, Vector.getElem_replicate _⟩⟩
  ones j := by rw [State.resetFor_fdnAt]; exact ⟨rfl, rfl⟩
  zeros j := by
    rw [State.resetFor_fdnAt]
    exact ⟨rfl, rfl, fun k => ⟨Vector.getElem_replicate _, Vector.getElem_replicate _,
      Vector.getElem_replicate _, Vector.getElem_replicate _⟩⟩
  pkt := rfl

/-- Settles O13: each row from the constant vectors of `State.resetFor`. -/
theorem resetValues : Obligations.ResetValues := State.resetFor_atReset

end Machine
end Sys2Proof
end

section
/-! PROOFS. Where a stream of words is cut is not seen (30_encoding.md R92), and what one step can
do. -/

namespace Sys2Proof
namespace Machine

variable {P : Params}

/-! ## Receiving in two parts -/

theorem receive_cons_of_open {b : PacketBuf} (h : b.packet? = none) (w : Word) (ws : List Word) :
    receive b (w :: ws) = receive (b.push w) ws := by
  rw [receive, h]

/-- A buffer still waiting after `xs` takes up the words `ys` where it stopped. -/
theorem receive_append {b b' : PacketBuf} {xs : List Word} (h : receive b xs = .waiting b')
    (ys : List Word) : receive b (xs ++ ys) = receive b' ys := by
  induction xs generalizing b with
  | nil =>
    cases hb : b.packet? with
    | none => simp_all [receive]
    | some p => simp [receive, hb] at h
  | cons x xs ih =>
    cases hb : b.packet? with
    | none =>
      rw [receive_cons_of_open hb] at h
      rw [List.cons_append, receive_cons_of_open hb]
      exact ih h
    | some p => simp [receive, hb] at h

theorem receive_of_incomplete {words : List Word} (h : decodePacket words P = .incomplete) :
    ∃ b, receive PacketBuf.empty words = .waiting b := by
  cases words with
  | nil => exact ⟨_, receive_empty_nil⟩
  | cons w ws =>
    by_cases hlen : ws.length < nargOf w
    · exact ⟨_, by rw [receive_empty, if_pos hlen]⟩
    · rw [decodePacket, if_neg hlen] at h
      split at h <;> cases h

/-- A packet still open after more words keeps the buffer well formed (R62). -/
theorem PacketBuf.Inv.receive {b b' : PacketBuf} {ws : List Word} (h : b.Inv)
    (hr : Machine.receive b ws = .waiting b') : b'.Inv := by
  obtain ⟨hnone, hsome⟩ := h
  obtain ⟨cmd, args, got⟩ := b
  have opened : ∀ (c : Word) (args' : List Word) (got' : Nat), got' < nargOf c →
      args'.length = min got' keptOperands →
      PacketBuf.Inv { cmd := some c, args := args', got := got' } := fun c args' got' hlt hlen =>
    ⟨fun h => absurd h (by simp), fun _ h => by cases h; exact ⟨hlt, hlen⟩⟩
  cases cmd with
  | none =>
    rw [hnone rfl] at hr
    cases ws with
    | nil => cases hr; exact PacketBuf.empty_inv
    | cons w ws =>
      rw [receive_empty] at hr
      split_ifs at hr with hlen
      cases hr
      exact opened _ _ _ hlen (by simp [keepOperands, Nat.min_comm])
  | some c =>
    obtain ⟨hgot, hargs⟩ := hsome c rfl
    simp only at hgot hargs
    rw [receive_open c ws args got hgot.le] at hr
    split_ifs at hr with hlen
    cases hr
    refine opened _ _ _ (by omega) ?_
    simp only [keepOperands, List.length_append, List.length_take, hargs]
    omega

/-! ## The cases of a step -/

/-- The command, if any, that the packet the next step completes decodes to. -/
theorem nextCommand_of_packet {s : State P} {w : Word} {args rest : List Word}
    (hrst : s.rstN = true) (hr : receive s.pkt s.cmdIn = .packet w args rest) :
    nextCommand s = (decode w args P).toOption := by
  rw [nextCommand, if_pos hrst, hr]

/-- Everything a step can do: hard reset, waiting, refusing a packet that decodes to no command, or
running the command it decodes to. -/
theorem step_cases {s t : State} (h : step s = .next t) :
    (s.rstN = false ∧ t = hardReset s) ∨
      (∃ b, receive s.pkt s.cmdIn = .waiting b ∧ t = s.waitingWith b) ∨
      (∃ w e rest, t = refuse w e (s.afterPacket rest)) ∨
      (∃ i rest, nextCommand s = some i ∧ exec i (s.afterPacket rest) = .next t) := by
  unfold step at h
  cases hrst : s.rstN with
  | false =>
    rw [stepWith_reset hrst] at h
    cases h
    exact .inl ⟨rfl, rfl⟩
  | true =>
    cases hr : receive s.pkt s.cmdIn with
    | waiting b =>
      rw [stepWith_waiting hrst hr] at h
      cases h
      exact .inr (.inl ⟨b, rfl, rfl⟩)
    | packet w args rest =>
      rw [stepWith_packet hrst hr] at h
      cases hd : decode w args with
      | error e =>
        rw [runPacket, hd] at h
        cases h
        exact .inr (.inr (.inl ⟨w, e, rest, rfl⟩))
      | ok i =>
        rw [runPacket_of_decode hd] at h
        exact .inr (.inr (.inr ⟨i, rest, by rw [nextCommand_of_packet hrst hr, hd]; rfl, h⟩))

/-- A step reads the packet buffer and the command stream through `receive` alone. -/
theorem stepWith_congr_receive {run : Instr → State P → Result P} {s : State P}
    (hrst : s.rstN = true) {b : PacketBuf} {l : List Word}
    (hr : receive b l = receive s.pkt s.cmdIn) :
    stepWith run ((s.setPkt b).setCmdIn l) = stepWith run s := by
  have hrst' : ((s.setPkt b).setCmdIn l).rstN = true := hrst
  cases hs : receive s.pkt s.cmdIn with
  | packet w args rest =>
    rw [stepWith_packet hrst hs, stepWith_packet hrst' (hr.trans hs)]
    rfl
  | waiting b' =>
    rw [stepWith_waiting hrst hs, stepWith_waiting hrst' (hr.trans hs)]
    rfl

theorem State.waitingWith_sameBut (s : State P) (b : PacketBuf) :
    SameBut [.pkt, .cmdIn] s (s.waitingWith b) := by
  constructor <;> simp [State.waitingWith]

/-- Settles O7: an incomplete packet leaves `receive` waiting, and `receive_append` takes it up
again. -/
theorem partialPacketWaits : Obligations.PartialPacketWaits := by
  intro s hrst hpkt hdec
  obtain ⟨b, hb⟩ := receive_of_incomplete hdec
  rw [← hpkt] at hb
  refine ⟨s.waitingWith b, stepWith_waiting hrst hb, s.waitingWith_sameBut b, rfl, fun ws => ?_⟩
  exact stepWith_congr_receive (s := hostSend ws s) hrst (receive_append hb ws).symm

end Machine
end Sys2Proof
end

section
/-! PROOFS. What a command may do to the state, said once: every command goes from its state to the
next by updates it is permitted, of the instances it names (10_state.md R33), the flags of its row
(R56), the mode and the error record. What every step keeps is then an induction over the updates. -/

namespace Sys2Proof
namespace Machine

variable {P : Params}

/-- The commands that may set a flag, R56's table; `F_CMD` is set by refusing a command. -/
def Flag.setters : Flag → List Opcode
  | .fDelay => [.rbReadi, .rbReadf, .apfProcess, .combProcess, .fdnStep]
  | .fGain => [.apfProcess, .combProcess, .fdnStep]
  | .fShape => [.fdCompute]
  | .fParam => [.fdSetparam, .oscProcess, .smConfig]
  | .fCmd => []

/-- The states the command `i` can reach from `s` by the updates it is permitted. -/
inductive Permitted (i : Instr) (s : State P) : State P → Prop
  | start : Permitted i s s
  | rb {u : State P} (r : Fin P.nRB) (x : RbInst) (hn : namesRb s i r = true) (hx : x.Inv P)
      (hu : Permitted i s u) : Permitted i s (u.setRb r x)
  | fd {u : State P} (r : Fin P.nFD) (x : FdInst) (hi : unitOf i = 2) (hr : i.inst.toNat = r.val)
      (hu : Permitted i s u) : Permitted i s (u.setFd r x)
  | osc {u : State P} (r : Fin P.nOSC) (x : OscInst) (hi : unitOf i = 3)
      (hr : i.inst.toNat = r.val) (hu : Permitted i s u) : Permitted i s (u.setOsc r x)
  | sm {u : State P} (r : Fin P.nSM) (x : SmInst) (hi : unitOf i = 4) (hr : i.inst.toNat = r.val)
      (hu : Permitted i s u) : Permitted i s (u.setSm r x)
  | fdn {u : State P} (r : Fin P.nFDN) (x : FdnInst) (hi : unitOf i = 7)
      (hr : i.inst.toNat = r.val) (hx : x.Inv P) (hu : Permitted i s u) :
      Permitted i s (u.setFdn r x)
  | mode {u : State P} (m : Mode) (hi : i = .sysPrepare ∧ m = .prepare ∨ i = .sysStart ∧ m = .run)
      (hu : Permitted i s u) : Permitted i s (u.setMode m)
  | flag {u : State P} (c : Bool) (f : Flag) (hf : i.opcode ∈ f.setters) (hu : Permitted i s u) :
      Permitted i s (u.flagIf c f)
  | draw {u : State P} (hu : Permitted i s u) : Permitted i s u.nextDraw
  | answer {u : State P} (w : Word) (l : List Word) (hu : Permitted i s u) :
      Permitted i s (respond w l u)
  | refusal {u : State P} (w : Word) (e : CmdError) (hu : Permitted i s u) :
      Permitted i s (refuse w e u)
  | clear {u : State P} (m : Word) (hi : i = .sysClrstatus m) (hu : Permitted i s u) :
      Permitted i s (clearStatus m u)
  | reset {u : State P} (hi : i = .sysReset) (hu : Permitted i s u) : Permitted i s (resetState u)

theorem Flag.ne_fCmd_of_mem_setters {f : Flag} {o : Opcode} (h : o ∈ f.setters) : f ≠ .fCmd := by
  rintro rfl
  exact absurd h List.not_mem_nil

theorem mem_setters {i : Instr} {o : Opcode} {f : Flag} (h : i.opcode = o) (ho : o ∈ f.setters) :
    i.opcode ∈ f.setters := h ▸ ho

theorem unitOf_eq {i : Instr} {o : Opcode} {n : BitVec 4} (h : i.opcode = o)
    (ho : o.code.extractLsb' 4 4 = n) : unitOf i = n := by
  rw [unitOf, h, ho]

/-! ## The invariant through the updates -/

/-- Clearing `F_CMD` clears the record with it; clearing other flags leaves both (R57, R305). -/
theorem State.Inv.clearStatus {s : State P} (h : s.Inv) (m : Word) : (clearStatus m s).Inv := by
  unfold Machine.clearStatus
  cases hm : m.getLsbD 4 with
  | true => exact ⟨h.rb, h.fdn, fun _ => ⟨rfl, rfl⟩, h.pkt⟩
  | false =>
    refine ⟨h.rb, h.fdn, fun hf => h.err ?_, h.pkt⟩
    rw [State.hasFlag_fCmd] at hf ⊢
    simpa [-BitVec.getLsbD_eq_getElem, hm] using hf

theorem Permitted.inv {i : Instr} {s t : State P} (h : Permitted i s t) (hs : s.Inv) : t.Inv := by
  induction h with
  | start => exact hs
  | rb r x _ hx _ ih => exact ih.setRb r hx
  | fd r x _ _ _ ih => exact ih.setFd r x
  | osc r x _ _ _ ih => exact ih.setOsc r x
  | sm r x _ _ _ ih => exact ih.setSm r x
  | fdn r x _ _ hx _ ih => exact ih.setFdn r hx
  | mode m _ _ ih => exact ih.setMode m
  | flag c f hf _ ih => exact ih.flagIf c (Flag.ne_fCmd_of_mem_setters hf)
  | draw _ ih => exact ih.nextDraw
  | answer w l _ ih => exact ih.respond w l
  | refusal w e _ ih => exact ih.refuse w e
  | clear m _ _ ih => exact ih.clearStatus m
  | reset _ _ _ => exact resetState_inv _

/-! ## Buffers and networks the commands write -/

theorem npot_eq_two_pow {n k : Nat} (h : n ≤ 2 ^ k) : ∃ j ≤ k, npot n = 2 ^ j := by
  unfold npot
  split_ifs with hn
  · exact ⟨0, Nat.zero_le k, rfl⟩
  · exact ⟨Nat.log2 (n - 1) + 1, (Nat.log2_lt (by omega)).2 (by omega), rfl⟩

theorem freshBuffer_inv {n : Word} (h : n.toNat ≤ P.capMax) : (freshBuffer n).Inv P := by
  obtain ⟨j, hj, hn⟩ := npot_eq_two_pow h
  have hlt : 2 ^ j < 2 ^ 32 :=
    Nat.pow_lt_pow_right (by omega) (by have := P.capLog2Max_bound; omega)
  have hpos : 0 < 2 ^ j := Nat.two_pow_pos j
  have hcap : (BitVec.ofNat 32 (npot n.toNat)).toNat = 2 ^ j := by
    rw [hn, BitVec.toNat_ofNat, Nat.mod_eq_of_lt hlt]
  refine ⟨fun _ => ⟨j, hj, hcap, ?_, hpos⟩, fun hv => Bool.noConfusion hv, rfl,
    fun _ hc => absurd hc List.not_mem_nil⟩
  show (BitVec.ofNat 32 (npot n.toNat) - 1).toNat = 2 ^ j - 1
  rw [BitVec.toNat_sub, hcap, show (1 : BitVec 32).toNat = 1 from rfl]
  omega

/-- A binding whose operands passed their check has its lines in range (R270). -/
theorem FdnInst.bind_inv (f : FdnInst) {r0 r1 r2 r3 : Word}
    (h : (bindOperandOk P r0 && bindOperandOk P r1 && bindOperandOk P r2 && bindOperandOk P r3)
      = true) :
    FdnInst.Inv { f with
      line := #v[r0.setWidth 8, r1.setWidth 8, r2.setWidth 8, r3.setWidth 8], bound := true }
      P := by
  simp only [bindOperandOk, Bool.and_eq_true, decide_eq_true_eq] at h
  obtain ⟨⟨⟨h0, h1⟩, h2⟩, h3⟩ := h
  have narrow : ∀ {r : Word}, r.toNat < P.nRB → (r.setWidth 8).toNat < P.nRB := fun hr => by
    rw [BitVec.toNat_setWidth]
    exact (Nat.mod_le _ _).trans_lt hr
  intro k
  fin_cases k
  · exact narrow h0
  · exact narrow h1
  · exact narrow h2
  · exact narrow h3

theorem Permitted.write {i : Instr} {s u : State P} (hs : s.Inv) {r : Fin P.nRB}
    (hn : namesRb s i r = true) (hv : (u.rbAt r).valid = true) (v : F32) (hu : Permitted i s u) :
    Permitted i s (u.setRb r ((u.rbAt r).written v)) :=
  .rb r _ hn (((hu.inv hs).rb r).written hv v) hu

theorem Permitted.writeFour {i : Instr} {s : State P} (hs : s.Inv) {l : Vector (Fin P.nRB) 4}
    (hn : ∀ k : Fin 4, namesRb s i l[k] = true) (hv : ∀ k : Fin 4, (s.rbAt l[k]).valid = true)
    (x : Vector F32 4) : Permitted i s (s.writeFour l x) :=
  .write hs (hn 3) (by simp only [State.writeTo_valid]; exact hv 3) _ <|
  .write hs (hn 2) (by simp only [State.writeTo_valid]; exact hv 2) _ <|
  .write hs (hn 1) (by simp only [State.writeTo_valid]; exact hv 1) _ <|
  .write hs (hn 0) (hv 0) _ .start

/-! ## The checks: a command goes on, or is refused -/

section
variable {j : Instr} {i : Inst} {w : Word} {s t : State P}

theorem Permitted.of_withInst {n : Nat} {k : Fin n → Result P}
    (hk : ∀ h : i.toNat < n, k ⟨i.toNat, h⟩ = .next t → Permitted j s t)
    (he : withInst n i w s k = .next t) : Permitted j s t := by
  rcases withInst_cases n i w s k with ⟨h, e⟩ | ⟨-, e⟩ <;> rw [e] at he
  · exact hk h he
  · cases he
    exact .refusal _ _ .start

theorem Permitted.of_inPrepare {k : Result P} (hk : k = .next t → Permitted j s t)
    (he : inPrepare w s k = .next t) : Permitted j s t := by
  rcases inPrepare_cases w s k with ⟨-, e⟩ | ⟨-, e⟩ <;> rw [e] at he
  · exact hk he
  · cases he
    exact .refusal _ _ .start

theorem Permitted.of_withBuffer {k : Fin P.nRB → Result P}
    (hk : ∀ h : i.toNat < P.nRB, (s.rbAt ⟨i.toNat, h⟩).valid = true →
      k ⟨i.toNat, h⟩ = .next t → Permitted j s t)
    (he : withBuffer i w s k = .next t) : Permitted j s t := by
  refine .of_withInst (fun h he => ?_) he
  split_ifs at he with hv
  · exact hk h hv he
  · cases he
    exact .refusal _ _ .start

end

/-! ## FDN.STEP -/

theorem namesRb_fdnStep {i : Inst} {s : State P} (h : i.toNat < P.nFDN)
    (hf : (s.fdnAt ⟨i.toNat, h⟩).Inv P) (x d m : F32) (k : Fin 4) :
    namesRb s (.fdnStep i x d m) ((s.fdnAt ⟨i.toNat, h⟩).lines hf)[k] = true := by
  rw [namesRb, dif_pos h]
  refine decide_eq_true ⟨k, ?_⟩
  fin_cases k <;> rfl

theorem Permitted.of_fdnStep {i : Inst} {x d m : F32} {s t : State P} (hs : s.Inv)
    (he : execFdnStep i x d m s = .next t) : Permitted (.fdnStep i x d m) s t := by
  by_cases h : i.toNat < P.nFDN
  · have hf := hs.fdn ⟨i.toNat, h⟩
    by_cases hb : (s.fdnAt ⟨i.toNat, h⟩).bound = true
    · by_cases hv : ∀ k : Fin 4, (s.rbAt ((s.fdnAt ⟨i.toNat, h⟩).lines hf)[k]).valid = true
      · rw [execFdnStep_ok h hs.rb hf hb hv] at he
        cases he
        exact .answer _ _ <| .draw <|
          .flag _ .fGain (mem_setters (o := .fdnStep) rfl (by decide)) <|
          .flag _ .fDelay (mem_setters (o := .fdnStep) rfl (by decide)) <|
          .fdn _ _ (unitOf_eq (o := .fdnStep) rfl (by decide)) rfl hf <|
          .writeFour hs (namesRb_fdnStep h hf x d m) hv _
      · rw [execFdnStep_invalid h hf hb hv] at he
        cases he
        exact .refusal _ _ .start
    · rw [execFdnStep_unbound h (by simpa using hb)] at he
      cases he
      exact .refusal _ _ .start
  · rw [execFdnStep, withInst_refused h] at he
    cases he
    exact .refusal _ _ .start

/-! ## Every command -/

/-- Every command of the PDC stays within the updates it is permitted. -/
theorem execFor_permitted {i : Instr} {s t : State P} (hs : s.Inv) (he : execFor i s = .next t) :
    Permitted i s t := by
  cases i with
  | sysReset => cases he; exact .answer _ _ <| .reset rfl .start
  | sysPrepare => cases he; exact .answer _ _ <| .mode _ (.inl ⟨rfl, rfl⟩) .start
  | sysStart => cases he; exact .answer _ _ <| .mode _ (.inr ⟨rfl, rfl⟩) .start
  | sysRdcsr reg => cases he; exact .answer _ _ .start
  | sysClrstatus mask => cases he; exact .answer _ _ <| .clear mask rfl .start
  | rbCreate i n =>
    unfold execFor execRbCreate at he
    refine .of_withInst (fun h => .of_inPrepare fun he => ?_) he
    split_ifs at he with hn <;> cases he
    · exact .refusal _ _ .start
    · exact .answer _ _ <| .rb _ _ (decide_eq_true rfl) (freshBuffer_inv (by omega)) .start
  | rbDestroy i =>
    unfold execFor execRbDestroy at he
    refine .of_withInst (fun h => .of_inPrepare fun he => ?_) he
    cases he
    exact .answer _ _ <| .rb _ _ (decide_eq_true rfl) RbInst.reset_inv .start
  | rbWrite i v =>
    unfold execFor execRbWrite at he
    refine .of_withBuffer (fun h hv he => ?_) he
    have hn : namesRb s (.rbWrite i v) ⟨i.toNat, h⟩ = true := decide_eq_true rfl
    rw [ringWriteAt_ok (hs.rb _) hv] at he
    cases he
    exact .answer _ _ <| .write hs hn hv _ .start
  | rbReadi i d =>
    unfold execFor execRbReadi at he
    refine .of_withBuffer (fun h hv he => ?_) he
    rw [ringReadInt_delayed (hs.rb _) hv] at he
    cases he
    exact .answer _ _ <| .flag _ .fDelay (mem_setters (o := .rbReadi) rfl (by decide)) .start
  | rbReadf i p d =>
    unfold execFor execRbReadf at he
    refine .of_withBuffer (fun h hv he => ?_) he
    rw [ringReadFrac_ok (hs.rb _) hv] at he
    cases he
    exact .answer _ _ <| .draw <|
      .flag _ .fDelay (mem_setters (o := .rbReadf) rfl (by decide)) .start
  | fdSetparam i c sr q g =>
    unfold execFor execFdSetparam at he
    refine .of_withInst (fun h he => ?_) he
    cases he
    exact .answer _ _ <| .draw <|
      .flag _ .fParam (mem_setters (o := .fdSetparam) rfl (by decide)) <|
      .fd _ _ (unitOf_eq (o := .fdSetparam) rfl (by decide)) rfl .start
  | fdCompute i sh =>
    unfold execFor execFdCompute at he
    refine .of_withInst (fun h he => ?_) he
    cases he
    exact .answer _ _ <| .draw <| .flag _ .fShape (mem_setters (o := .fdCompute) rfl (by decide)) <|
      .fd _ _ (unitOf_eq (o := .fdCompute) rfl (by decide)) rfl .start
  | fdGetcoef i =>
    unfold execFor execFdGetcoef at he
    refine .of_withInst (fun h he => ?_) he
    cases he
    exact .answer _ _ .start
  | oscProcess i wv f sr po =>
    unfold execFor execOscProcess at he
    refine .of_withInst (fun h he => ?_) he
    cases he
    exact .answer _ _ <| .draw <|
      .flag _ .fParam (mem_setters (o := .oscProcess) rfl (by decide)) <|
      .osc _ _ (unitOf_eq (o := .oscProcess) rfl (by decide)) rfl .start
  | smConfig i ms sr =>
    unfold execFor execSmConfig at he
    refine .of_withInst (fun h he => ?_) he
    cases he
    exact .answer _ _ <| .draw <| .flag _ .fParam (mem_setters (o := .smConfig) rfl (by decide)) <|
      .sm _ _ (unitOf_eq (o := .smConfig) rfl (by decide)) rfl .start
  | smProcess i v x =>
    unfold execFor execSmProcess at he
    refine .of_withInst (fun h he => ?_) he
    cases he
    exact .answer _ _ <| .draw <| .sm _ _ (unitOf_eq (o := .smProcess) rfl (by decide)) rfl .start
  | apfProcess i v p x d g =>
    unfold execFor execApfProcess at he
    refine .of_withBuffer (fun h hv he => ?_) he
    have hn : namesRb s (.apfProcess i v p x d g) ⟨i.toNat, h⟩ = true := decide_eq_true rfl
    simp only [ringReadFrac_ok (hs.rb _) hv, ringWriteAt_ok (hs.rb _) hv, bind, Except.bind] at he
    cases he
    exact .answer _ _ <| .draw <| .flag _ .fGain (mem_setters (o := .apfProcess) rfl (by decide)) <|
      .flag _ .fDelay (mem_setters (o := .apfProcess) rfl (by decide)) <|
      .write hs hn hv _ .start
  | combProcess i p x d g m =>
    unfold execFor execCombProcess at he
    refine .of_withBuffer (fun h hv he => ?_) he
    have hn : namesRb s (.combProcess i p x d g m) ⟨i.toNat, h⟩ = true := decide_eq_true rfl
    simp only [ringReadFrac_ok (hs.rb _) hv, ringWriteAt_ok (hs.rb _) hv, bind, Except.bind] at he
    cases he
    exact .answer _ _ <| .draw <|
      .flag _ .fGain (mem_setters (o := .combProcess) rfl (by decide)) <|
      .flag _ .fDelay (mem_setters (o := .combProcess) rfl (by decide)) <|
      .write hs hn hv _ .start
  | fdnBind i r0 r1 r2 r3 =>
    unfold execFor execFdnBind at he
    refine .of_withInst (fun h he => ?_) he
    split_ifs at he with hb
    · refine .of_inPrepare (fun he => ?_) he
      cases he
      exact .answer _ _ <|
        .fdn _ _ (unitOf_eq (o := .fdnBind) rfl (by decide)) rfl (FdnInst.bind_inv _ hb) .start
    · cases he
      exact .refusal _ _ .start
  | fdnSetlen i l0 l1 l2 l3 =>
    unfold execFor execFdnSetlen at he
    refine .of_withInst (fun h he => ?_) he
    cases he
    exact .answer _ _ <|
      .fdn _ _ (unitOf_eq (o := .fdnSetlen) rfl (by decide)) rfl (hs.fdn ⟨_, h⟩) .start
  | fdnSetrot i c sn =>
    unfold execFor execFdnSetrot at he
    refine .of_withInst (fun h he => ?_) he
    cases he
    exact .answer _ _ <|
      .fdn _ _ (unitOf_eq (o := .fdnSetrot) rfl (by decide)) rfl (hs.fdn ⟨_, h⟩) .start
  | fdnSetdamp i a =>
    unfold execFor execFdnSetdamp at he
    refine .of_withInst (fun h he => ?_) he
    cases he
    exact .answer _ _ <| .draw <|
      .fdn _ _ (unitOf_eq (o := .fdnSetdamp) rfl (by decide)) rfl (hs.fdn ⟨_, h⟩) .start
  | fdnSetgain i g0 g1 g2 g3 w0 w1 w2 w3 =>
    unfold execFor execFdnSetgain at he
    refine .of_withInst (fun h he => ?_) he
    cases he
    exact .answer _ _ <|
      .fdn _ _ (unitOf_eq (o := .fdnSetgain) rfl (by decide)) rfl (hs.fdn ⟨_, h⟩) .start
  | fdnStep i x d m => exact .of_fdnStep hs he

theorem exec_permitted {i : Instr} {s t : State} (hs : s.Inv) (he : exec i s = .next t) :
    Permitted i s t :=
  execFor_permitted hs (exec_eq_execFor i s ▸ he)

theorem State.Inv.afterPacket {s : State P} (h : s.Inv) (rest : List Word) :
    (s.afterPacket rest).Inv :=
  (h.setPkt PacketBuf.empty_inv).setCmdIn rest

/-- Settles O11: reset, waiting and a refusal keep the invariant, and so does every update of a
command. -/
theorem stepKeepsInvariant : Obligations.StepKeepsInvariant := by
  intro s t hs hstep
  obtain ⟨-, rfl⟩ | ⟨b, hr, rfl⟩ | ⟨w, e, rest, rfl⟩ | ⟨i, rest, -, he⟩ := step_cases hstep
  · exact hardReset_inv s
  · exact (hs.setPkt (hs.pkt.receive hr)).setCmdIn []
  · exact (hs.afterPacket rest).refuse w e
  · exact (exec_permitted (hs.afterPacket rest) he).inv (hs.afterPacket rest)

end Machine
end Sys2Proof
end

section
/-! PROOFS. The sticky flags through the updates a command is permitted (10_state.md R56,
60_exceptions.md R330). -/

namespace Sys2Proof
namespace Machine

variable {P : Params}

/-- The bit number of a flag in `STATUS` (R56). -/
def Flag.bit : Flag → Nat
  | .fDelay => 0
  | .fGain => 1
  | .fShape => 2
  | .fParam => 3
  | .fCmd => 4

theorem Flag.getLsbD_mask (f g : Flag) : g.mask.getLsbD f.bit = decide (f = g) := by
  cases f <;> cases g <;> rfl

theorem Flag.and_mask_ne_zero (f : Flag) (x : BitVec 5) :
    x &&& f.mask ≠ 0 ↔ x.getLsbD f.bit = true := by
  cases f <;> revert x <;> decide

theorem State.hasFlag_eq_bit (s : State P) (f : Flag) : s.hasFlag f = s.status.getLsbD f.bit := by
  rw [Bool.eq_iff_iff, State.hasFlag_eq, decide_eq_true_iff, Flag.and_mask_ne_zero]

theorem State.hasFlag_congr {s t : State P} (h : t.status = s.status) (f : Flag) :
    t.hasFlag f = s.hasFlag f := by
  rw [State.hasFlag_eq, State.hasFlag_eq, h]

theorem hasFlag_flagIf (s : State P) (c : Bool) (f g : Flag) :
    (s.flagIf c g).hasFlag f = (s.hasFlag f || (c && decide (f = g))) := by
  rw [State.hasFlag_eq_bit, State.hasFlag_eq_bit, State.flagIf_status]
  cases c <;> simp [-BitVec.getLsbD_eq_getElem, Flag.getLsbD_mask]

theorem hasFlag_refuse (s : State P) (w : Word) (e : CmdError) (f : Flag) :
    (refuse w e s).hasFlag f = (s.hasFlag f || decide (f = .fCmd)) := by
  rw [State.hasFlag_eq_bit, State.hasFlag_eq_bit, refuse_status, BitVec.getLsbD_or,
    Flag.getLsbD_mask]

theorem clearStatus_status (s : State P) (m : Word) :
    (clearStatus m s).status = s.status &&& ~~~(m.setWidth 5) := by
  unfold clearStatus
  split_ifs <;> rfl

theorem hasFlag_clearStatus (s : State P) (m : Word) (f : Flag) :
    (clearStatus m s).hasFlag f = (s.hasFlag f && !decide (m.setWidth 5 &&& f.mask ≠ 0)) := by
  have hbit : f.bit < 5 := by cases f <;> decide
  rw [State.hasFlag_eq_bit, State.hasFlag_eq_bit, clearStatus_status, BitVec.getLsbD_and,
    BitVec.getLsbD_not, decide_eq_true hbit, Bool.true_and, Bool.decide_congr
    (Flag.and_mask_ne_zero f _), Bool.decide_eq_true]

theorem hasFlag_resetState (s : State P) (f : Flag) : (resetState s).hasFlag f = false := by
  rw [State.hasFlag_eq_bit, resetState_status, State.resetFor_status, BitVec.ofNat_eq_ofNat,
    BitVec.getLsbD_zero]

/-- A set flag is cleared by SYS.RESET, or by SYS.CLRSTATUS with its bit. -/
theorem Permitted.hasFlag_kept {i : Instr} {s t : State P} {f : Flag} (h : Permitted i s t)
    (hf : s.hasFlag f = true) :
    t.hasFlag f = true ∨ i = .sysReset ∨
      ∃ m, i = .sysClrstatus m ∧ m.setWidth 5 &&& f.mask ≠ 0 := by
  induction h with
  | start => exact .inl hf
  | rb _ _ _ _ _ ih => exact ih
  | fd _ _ _ _ _ ih => exact ih
  | osc _ _ _ _ _ ih => exact ih
  | sm _ _ _ _ _ ih => exact ih
  | fdn _ _ _ _ _ _ ih => exact ih
  | mode _ _ _ ih => exact ih
  | flag c g _ _ ih => exact ih.imp_left fun hu => by rw [hasFlag_flagIf, hu, Bool.true_or]
  | draw _ ih => exact ih
  | answer _ _ _ ih => exact ih
  | refusal w e _ ih => exact ih.imp_left fun hu => by rw [hasFlag_refuse, hu, Bool.true_or]
  | clear m hi _ ih =>
    by_cases hm : m.setWidth 5 &&& f.mask ≠ 0
    · exact .inr (.inr ⟨m, hi, hm⟩)
    · exact ih.imp_left fun hu => by rw [hasFlag_clearStatus, hu, decide_eq_false hm]; rfl
  | reset hi _ _ => exact .inr (.inl hi)

/-- A source-derived flag that is set was set before, or the command is one of its row (R56). -/
theorem Permitted.hasFlag_origin {i : Instr} {s t : State P} {f : Flag} (h : Permitted i s t)
    (hcmd : f ≠ .fCmd) (hf : t.hasFlag f = true) : s.hasFlag f = true ∨ i.opcode ∈ f.setters := by
  induction h with
  | start => exact .inl hf
  | rb _ _ _ _ _ ih => exact ih hf
  | fd _ _ _ _ _ ih => exact ih hf
  | osc _ _ _ _ _ ih => exact ih hf
  | sm _ _ _ _ _ ih => exact ih hf
  | fdn _ _ _ _ _ _ ih => exact ih hf
  | mode _ _ _ ih => exact ih hf
  | flag c g hg _ ih =>
    rw [hasFlag_flagIf, Bool.or_eq_true, Bool.and_eq_true, decide_eq_true_iff] at hf
    obtain hu | ⟨-, rfl⟩ := hf
    · exact ih hu
    · exact .inr hg
  | draw _ ih => exact ih hf
  | answer _ _ _ ih => exact ih hf
  | refusal w e _ ih =>
    rw [hasFlag_refuse, decide_eq_false hcmd, Bool.or_false] at hf
    exact ih hf
  | clear m _ _ ih =>
    rw [hasFlag_clearStatus, Bool.and_eq_true] at hf
    exact ih hf.1
  | reset _ _ _ =>
    rw [hasFlag_resetState] at hf
    exact absurd hf Bool.false_ne_true

/-- Settles O21: waiting touches no flag, a refusal sets `F_CMD` alone, and a command does what its
updates do. -/
theorem flagsAreSticky : Obligations.FlagsAreSticky := by
  intro s t f hs hstep
  obtain ⟨hrst, rfl⟩ | ⟨b, -, rfl⟩ | ⟨w, e, rest, rfl⟩ | ⟨i, rest, hi, he⟩ := step_cases hstep
  · have hclear : (hardReset s).hasFlag f = false := hasFlag_resetState s f
    exact ⟨fun _ _ => .inl hrst, fun _ hset => absurd (hclear.symm.trans hset) Bool.false_ne_true⟩
  · have hsame : (s.waitingWith b).hasFlag f = s.hasFlag f := rfl
    rw [hsame]
    exact ⟨fun hset hclr => by simp [hset] at hclr, fun hclr hset => by simp [hset] at hclr⟩
  · have hsame : (s.afterPacket rest).hasFlag f = s.hasFlag f := rfl
    rw [hasFlag_refuse, hsame]
    refine ⟨fun hset hclr => by simp [hset] at hclr, fun hclr hset hcmd => ?_⟩
    simp [hclr, hcmd] at hset
  · have hp := exec_permitted (hs.afterPacket rest) he
    rw [hi]
    refine ⟨fun hset hclr => ?_, fun hclr hset hcmd => ⟨i, rfl, ?_⟩⟩
    · obtain hkept | rfl | ⟨m, rfl, hm⟩ := hp.hasFlag_kept hset
      · exact absurd (hclr.symm.trans hkept) Bool.false_ne_true
      · exact .inr (.inl rfl)
      · exact .inr (.inr ⟨m, rfl, hm⟩)
    · have horigin := (hp.hasFlag_origin hcmd hset).resolve_left fun hold =>
        absurd (hclr.symm.trans hold) Bool.false_ne_true
      cases f <;> exact horigin

end Machine
end Sys2Proof
end

section
/-! PROOFS. A command writes only what it names (10_state.md R33, 20_memory.md R73). -/

namespace Sys2Proof
namespace Machine

variable {P : Params}

/-- The instances of every unit that the command `i`, run in `s`, does not name are in `t` what they
were. -/
structure OthersKept (i : Instr) (s t : State P) : Prop where
  rb  : ∀ j, namesRb s i j = false → t.rbAt j = s.rbAt j
  fd  : ∀ j : Fin P.nFD, unitOf i ≠ 2 ∨ i.inst.toNat ≠ j.val → t.fdAt j = s.fdAt j
  osc : ∀ j : Fin P.nOSC, unitOf i ≠ 3 ∨ i.inst.toNat ≠ j.val → t.oscAt j = s.oscAt j
  sm  : ∀ j : Fin P.nSM, unitOf i ≠ 4 ∨ i.inst.toNat ≠ j.val → t.smAt j = s.smAt j
  fdn : ∀ j : Fin P.nFDN, unitOf i ≠ 7 ∨ i.inst.toNat ≠ j.val → t.fdnAt j = s.fdnAt j

/-- The number a command names is not one it leaves alone. -/
theorem ne_of_unnamed {n : Nat} {i : Instr} {u : BitVec 4} {r j : Fin n} (hu : unitOf i = u)
    (hr : i.inst.toNat = r.val) (h : unitOf i ≠ u ∨ i.inst.toNat ≠ j.val) : r ≠ j := by
  rintro rfl
  exact h.elim (absurd hu) (absurd hr)

theorem Permitted.othersKept {i : Instr} {s t : State P} (hi : i ≠ .sysReset)
    (h : Permitted i s t) : OthersKept i s t := by
  induction h with
  | start => exact ⟨fun _ _ => rfl, fun _ _ => rfl, fun _ _ => rfl, fun _ _ => rfl, fun _ _ => rfl⟩
  | rb r x hn _ _ ih =>
    refine { ih with rb := fun j hj => ?_ }
    have hne : r ≠ j := by
      rintro rfl
      exact absurd (hj.symm.trans hn) Bool.false_ne_true
    exact (State.setRb_rbAt_ne _ x hne).trans (ih.rb j hj)
  | fd r x hu hr _ ih =>
    exact { ih with
      fd := fun j hj => (State.setFd_fdAt_ne _ x (ne_of_unnamed hu hr hj)).trans (ih.fd j hj) }
  | osc r x hu hr _ ih =>
    exact { ih with
      osc := fun j hj => (State.setOsc_oscAt_ne _ x (ne_of_unnamed hu hr hj)).trans (ih.osc j hj) }
  | sm r x hu hr _ ih =>
    exact { ih with
      sm := fun j hj => (State.setSm_smAt_ne _ x (ne_of_unnamed hu hr hj)).trans (ih.sm j hj) }
  | fdn r x hu hr _ _ ih =>
    exact { ih with
      fdn := fun j hj => (State.setFdn_fdnAt_ne _ x (ne_of_unnamed hu hr hj)).trans (ih.fdn j hj) }
  | mode _ _ _ ih => exact { ih with }
  | flag _ _ _ _ ih => exact { ih with }
  | draw _ ih => exact { ih with }
  | answer _ _ _ ih => exact { ih with }
  | refusal w e _ ih =>
    exact ⟨fun j hj => (refuse_rbAt _ w e j).trans (ih.rb j hj),
      fun j hj => (refuse_fdAt _ w e j).trans (ih.fd j hj),
      fun j hj => (refuse_oscAt _ w e j).trans (ih.osc j hj),
      fun j hj => (refuse_smAt _ w e j).trans (ih.sm j hj),
      fun j hj => (refuse_fdnAt _ w e j).trans (ih.fdn j hj)⟩
  | clear m _ _ ih =>
    unfold clearStatus
    split_ifs <;> exact { ih with }
  | reset hreset _ _ => exact absurd hreset hi

/-- Settles O25. -/
theorem instancesAreIndependent : Obligations.InstancesAreIndependent := by
  intro i s t hs hi he
  obtain ⟨hrb, hfd, hosc, hsm, hfdn⟩ := (exec_permitted hs he).othersKept hi
  exact ⟨hrb, hfd, hosc, hsm, hfdn⟩

end Machine
end Sys2Proof
end

section
/-! PROOFS. No command reads `STATUS` or the error record but SYS.RDCSR (10_state.md R56,
60_exceptions.md R330): every operation takes states that differ in them alone to states that differ
in them alone. -/

namespace Sys2Proof
namespace Machine

variable {P : Params}

/-- The two states differ in `STATUS` and the error record alone. -/
abbrev Alike (s s' : State P) : Prop := SameBut [.status, .err] s s'

/-- Where the first result is a next state, the second is one too, and the two are alike. -/
def ResultsAlike (r r' : Result P) : Prop :=
  ∀ t, r = .next t → ∃ t', r' = .next t' ∧ Alike t t'

/-- The same of a computation that a fault can stop. -/
def RunsAlike (x x' : Except Fault (State P)) : Prop :=
  ∀ t, x = .ok t → ∃ t', x' = .ok t' ∧ Alike t t'

/-- A refusal writes `STATUS`, the error record and the response stream (R324). -/
theorem refuse_eq_record (w : Word) (e : CmdError) (s : State P) :
    ∃ i c, refuse w e s = ((s.setStatus (s.status ||| Flag.fCmd.mask)).setErr i c).setRspOut
      (s.rspOut ++ refusedPacket w e) := by
  unfold refuse recordError
  split_ifs
  · exact ⟨s.errInfo, s.errCode, rfl⟩
  · exact ⟨w, e.code, rfl⟩

/-! ## The updates of the state -/

section
variable {s s' : State P} (h : Alike s s')
include h

theorem Alike.rbAt (r : Fin P.nRB) : s'.rbAt r = s.rbAt r := by
  rw [State.rbAt, h.rb (by decide)]; rfl
theorem Alike.fdAt (r : Fin P.nFD) : s'.fdAt r = s.fdAt r := by
  rw [State.fdAt, h.fd (by decide)]; rfl
theorem Alike.oscAt (r : Fin P.nOSC) : s'.oscAt r = s.oscAt r := by
  rw [State.oscAt, h.osc (by decide)]; rfl
theorem Alike.smAt (r : Fin P.nSM) : s'.smAt r = s.smAt r := by
  rw [State.smAt, h.sm (by decide)]; rfl
theorem Alike.fdnAt (r : Fin P.nFDN) : s'.fdnAt r = s.fdnAt r := by
  rw [State.fdnAt, h.fdn (by decide)]; rfl
theorem Alike.mode_eq : s'.mode = s.mode := h.mode (by decide)
theorem Alike.draws : s'.draws = s.draws := by rw [State.draws, h.draw (by decide)]; rfl

theorem Alike.setRb (r : Fin P.nRB) (x : RbInst) : Alike (s.setRb r x) (s'.setRb r x) :=
  { h with rb := fun m => congrArg (·.set r.val x) (h.rb m) }

theorem Alike.setFd (r : Fin P.nFD) (x : FdInst) : Alike (s.setFd r x) (s'.setFd r x) :=
  { h with fd := fun m => congrArg (·.set r.val x) (h.fd m) }

theorem Alike.setOsc (r : Fin P.nOSC) (x : OscInst) : Alike (s.setOsc r x) (s'.setOsc r x) :=
  { h with osc := fun m => congrArg (·.set r.val x) (h.osc m) }

theorem Alike.setSm (r : Fin P.nSM) (x : SmInst) : Alike (s.setSm r x) (s'.setSm r x) :=
  { h with sm := fun m => congrArg (·.set r.val x) (h.sm m) }

theorem Alike.setFdn (r : Fin P.nFDN) (x : FdnInst) : Alike (s.setFdn r x) (s'.setFdn r x) :=
  { h with fdn := fun m => congrArg (·.set r.val x) (h.fdn m) }

theorem Alike.setMode (m : Mode) : Alike (s.setMode m) (s'.setMode m) :=
  { h with mode := fun _ => rfl }

theorem Alike.nextDraw : Alike s.nextDraw s'.nextDraw :=
  { h with draw := fun m => congrArg (· + 1) (h.draw m) }

theorem Alike.respond (w : Word) (l : List Word) : Alike (respond w l s) (respond w l s') :=
  { h with rspOut := fun m => congrArg (· ++ acceptedPacket w l) (h.rspOut m) }

theorem Alike.setStatus (x x' : BitVec 5) : Alike (s.setStatus x) (s'.setStatus x') :=
  { h with status := fun m => absurd (by decide) m }

theorem Alike.setErr (i i' : Word) (c c' : BitVec 8) : Alike (s.setErr i c) (s'.setErr i' c') :=
  { h with
    errInfo := fun m => absurd (by decide) m
    errCode := fun m => absurd (by decide) m }

theorem Alike.flagIf (c : Bool) (f : Flag) : Alike (s.flagIf c f) (s'.flagIf c f) :=
  h.setStatus _ _

theorem Alike.clearStatus (m : Word) : Alike (clearStatus m s) (clearStatus m s') := by
  unfold Machine.clearStatus
  split_ifs
  · exact (h.setStatus _ _).setErr _ _ _ _
  · exact h.setStatus _ _

theorem Alike.refuse (w : Word) (e : CmdError) : Alike (refuse w e s) (refuse w e s') := by
  obtain ⟨i, c, hs⟩ := refuse_eq_record w e s
  obtain ⟨i', c', hs'⟩ := refuse_eq_record w e s'
  rw [hs, hs']
  exact { (h.setStatus _ _).setErr i i' c c' with
    rspOut := fun m => congrArg (· ++ refusedPacket w e) (h.rspOut m) }

theorem Alike.resetState : Alike (resetState s) (resetState s') := 
  { rb := fun _ => rfl, fd := fun _ => rfl, osc := fun _ => rfl, sm := fun _ => rfl
    fdn := fun _ => rfl, mode := fun _ => rfl, status := fun _ => rfl, errInfo := fun _ => rfl
    errCode := fun _ => rfl, pkt := fun _ => rfl
    cmdIn := h.cmdIn, rspOut := h.rspOut, rstN := h.rstN, draw := h.draw }

end

/-! ## The checks and the ring-buffer writes -/

theorem ResultsAlike.next {t t' : State P} (h : Alike t t') :
    ResultsAlike (.next t) (.next t') := by
  rintro _ ⟨⟩
  exact ⟨t', rfl, h⟩

theorem RunsAlike.ok {t t' : State P} (h : Alike t t') : RunsAlike (.ok t) (.ok t') := by
  rintro _ ⟨⟩
  exact ⟨t', rfl, h⟩

theorem ResultsAlike.nextOrFault {x x' : Except Fault (State P)} (h : RunsAlike x x') :
    ResultsAlike (nextOrFault x) (nextOrFault x') := by
  intro t ht
  obtain ⟨t', rfl, halike⟩ := h t (nextOrFault_eq_next.1 ht)
  exact ⟨t', rfl, halike⟩

/-- Two computations that begin with the same value. -/
theorem RunsAlike.bind_same {α : Type} {x : Except Fault α} {f f' : α → Except Fault (State P)}
    (h : ∀ a, RunsAlike (f a) (f' a)) : RunsAlike (x >>= f) (x >>= f') := by
  cases x with
  | ok a => exact h a
  | error e => exact fun _ ht => nomatch ht

/-- Two computations that begin with states that are alike. -/
theorem RunsAlike.bind {x x' : Except Fault (State P)} {f f' : State P → Except Fault (State P)}
    (hx : RunsAlike x x') (h : ∀ u u', Alike u u' → RunsAlike (f u) (f' u')) :
    RunsAlike (x >>= f) (x' >>= f') := by
  cases x with
  | ok u =>
    obtain ⟨u', rfl, hu⟩ := hx u rfl
    exact h u u' hu
  | error e => exact fun _ ht => nomatch ht

section
variable {s s' : State P} (h : Alike s s')
include h

theorem Alike.withInst {n : Nat} {i : Inst} {w : Word} {k k' : Fin n → Result P}
    (hk : ∀ r, ResultsAlike (k r) (k' r)) :
    ResultsAlike (withInst n i w s k) (withInst n i w s' k') := by
  unfold Machine.withInst
  split_ifs
  · exact hk _
  · exact .next (h.refuse _ _)

theorem Alike.inPrepare {w : Word} {k k' : Result P} (hk : ResultsAlike k k') :
    ResultsAlike (inPrepare w s k) (inPrepare w s' k') := by
  unfold Machine.inPrepare
  rw [h.mode_eq]
  split_ifs
  · exact hk
  · exact .next (h.refuse _ _)

theorem Alike.withBuffer {i : Inst} {w : Word} {k k' : Fin P.nRB → Result P}
    (hk : ∀ r, ResultsAlike (k r) (k' r)) :
    ResultsAlike (withBuffer i w s k) (withBuffer i w s' k') := by
  refine h.withInst fun r => ?_
  rw [h.rbAt]
  split_ifs
  · exact hk r
  · exact .next (h.refuse _ _)

theorem Alike.ringWriteAt (r : Fin P.nRB) (v : F32) :
    RunsAlike (ringWriteAt s r v) (ringWriteAt s' r v) := by
  unfold Machine.ringWriteAt
  rw [h.rbAt]
  exact .bind_same fun b => .ok (h.setRb r b)

theorem Alike.writeLines (l : Vector (Fin P.nRB) 4) (x : Vector F32 4) :
    RunsAlike (writeLines s l x) (writeLines s' l x) :=
  (h.ringWriteAt _ _).bind fun _ _ h1 => (h1.ringWriteAt _ _).bind fun _ _ h2 =>
    (h2.ringWriteAt _ _).bind fun _ _ h3 => h3.ringWriteAt _ _

theorem Alike.linesValid (l : Vector (Fin P.nRB) 4) : linesValid s' l = linesValid s l := by
  simp only [Machine.linesValid, h.rbAt]

theorem Alike.tapsBeyond (f : FdnInst) (l : Vector (Fin P.nRB) 4) :
    tapsBeyond s' f l = tapsBeyond s f l := by
  simp only [Machine.tapsBeyond, h.rbAt]

theorem Alike.readTaps (f : FdnInst) (l : Vector (Fin P.nRB) 4) :
    readTaps s' f l = readTaps s f l := by
  simp only [Machine.readTaps, h.rbAt]

theorem Alike.fdnStep (i : Inst) (x d m : F32) :
    ResultsAlike (execFdnStep i x d m s) (execFdnStep i x d m s') := by
  unfold execFdnStep
  refine h.withInst fun r => ?_
  rw [h.fdnAt, h.draws]
  dsimp only
  split_ifs
  · refine .nextOrFault <| .bind_same fun l => ?_
    simp only [h.linesValid, h.readTaps, h.tapsBeyond]
    split_ifs
    · exact .bind_same fun t => (h.writeLines l _).bind fun _ _ hu =>
        .ok ((((hu.setFdn _ _).flagIf _ _).flagIf _ _).nextDraw.respond _ _)
    · exact .ok (h.refuse _ _)
  · exact .next (h.refuse _ _)

/-- The registers SYS.RDCSR returns, but for `STATUS` and the error record (R58). -/
theorem Alike.csrValue {c : Csr} (hs : c ≠ .status) (hi : c ≠ .errInfo) (hc : c ≠ .errCode) :
    Machine.csrValue s' c = Machine.csrValue s c := by
  cases c with
  | id => rfl
  | cfg0 => rfl
  | cfg1 => rfl
  | mode => exact congrArg Mode.bit h.mode_eq
  | status => exact absurd rfl hs
  | errInfo => exact absurd rfl hi
  | errCode => exact absurd rfl hc

/-- Every command but the three register reads takes alike states to alike results. -/
theorem Alike.execFor {i : Instr} (hs : i ≠ .sysRdcsr .status) (hi : i ≠ .sysRdcsr .errInfo)
    (hc : i ≠ .sysRdcsr .errCode) : ResultsAlike (Machine.execFor i s) (Machine.execFor i s') := by
  cases i with
  | sysReset => exact .next (h.resetState.respond _ _)
  | sysPrepare => exact .next ((h.setMode _).respond _ _)
  | sysStart => exact .next ((h.setMode _).respond _ _)
  | sysRdcsr c =>
    have hv : Machine.csrValue s' c = Machine.csrValue s c :=
      h.csrValue (fun e => hs (e ▸ rfl)) (fun e => hi (e ▸ rfl)) (fun e => hc (e ▸ rfl))
    show ResultsAlike (execSysRdcsr c s) (execSysRdcsr c s')
    rw [execSysRdcsr_eq, execSysRdcsr_eq, hv]
    exact .next (h.respond _ _)
  | sysClrstatus m => exact .next ((h.clearStatus m).respond _ _)
  | rbCreate i n =>
    unfold Machine.execFor execRbCreate
    refine h.withInst fun r => h.inPrepare ?_
    split_ifs
    · exact .next (h.refuse _ _)
    · exact .next ((h.setRb _ _).respond _ _)
  | rbDestroy i =>
    unfold Machine.execFor execRbDestroy
    exact h.withInst fun r => h.inPrepare <| .next ((h.setRb _ _).respond _ _)
  | rbWrite i v =>
    unfold Machine.execFor execRbWrite
    exact h.withBuffer fun r => .nextOrFault <| (h.ringWriteAt _ _).bind fun _ _ hu =>
      .ok (hu.respond _ _)
  | rbReadi i d =>
    unfold Machine.execFor execRbReadi
    refine h.withBuffer fun r => .nextOrFault ?_
    rw [h.rbAt]
    exact .bind_same fun v => .ok ((h.flagIf _ _).respond _ _)
  | rbReadf i p d =>
    unfold Machine.execFor execRbReadf
    refine h.withBuffer fun r => .nextOrFault ?_
    rw [h.rbAt, h.draws]
    exact .bind_same fun v => .ok ((h.flagIf _ _).nextDraw.respond _ _)
  | fdSetparam i c sr q g =>
    unfold Machine.execFor execFdSetparam
    refine h.withInst fun r => ?_
    rw [h.fdAt, h.draws]
    exact .next (((h.setFd _ _).flagIf _ _).nextDraw.respond _ _)
  | fdCompute i sh =>
    unfold Machine.execFor execFdCompute
    refine h.withInst fun r => ?_
    rw [h.fdAt, h.draws]
    exact .next (((h.setFd _ _).flagIf _ _).nextDraw.respond _ _)
  | fdGetcoef i =>
    unfold Machine.execFor execFdGetcoef
    refine h.withInst fun r => ?_
    rw [h.fdAt]
    exact .next (h.respond _ _)
  | oscProcess i wv f sr po =>
    unfold Machine.execFor execOscProcess
    refine h.withInst fun r => ?_
    rw [h.oscAt, h.draws]
    exact .next (((h.setOsc _ _).flagIf _ _).nextDraw.respond _ _)
  | smConfig i ms sr =>
    unfold Machine.execFor execSmConfig
    refine h.withInst fun r => ?_
    rw [h.smAt, h.draws]
    exact .next (((h.setSm _ _).flagIf _ _).nextDraw.respond _ _)
  | smProcess i v x =>
    unfold Machine.execFor execSmProcess
    refine h.withInst fun r => ?_
    rw [h.smAt, h.draws]
    exact .next ((h.setSm _ _).nextDraw.respond _ _)
  | apfProcess i v p x d g =>
    unfold Machine.execFor execApfProcess
    refine h.withBuffer fun r => .nextOrFault ?_
    rw [h.rbAt, h.draws]
    exact .bind_same fun y => (h.ringWriteAt _ _).bind fun _ _ hu =>
      .ok (((hu.flagIf _ _).flagIf _ _).nextDraw.respond _ _)
  | combProcess i p x d g m =>
    unfold Machine.execFor execCombProcess
    refine h.withBuffer fun r => .nextOrFault ?_
    rw [h.rbAt, h.draws]
    exact .bind_same fun y => (h.ringWriteAt _ _).bind fun _ _ hu =>
      .ok (((hu.flagIf _ _).flagIf _ _).nextDraw.respond _ _)
  | fdnBind i r0 r1 r2 r3 =>
    unfold Machine.execFor execFdnBind
    refine h.withInst fun r => ?_
    rw [h.fdnAt]
    split_ifs
    · exact h.inPrepare <| .next ((h.setFdn _ _).respond _ _)
    · exact .next (h.refuse _ _)
  | fdnSetlen i l0 l1 l2 l3 =>
    unfold Machine.execFor execFdnSetlen
    refine h.withInst fun r => ?_
    rw [h.fdnAt]
    exact .next ((h.setFdn _ _).respond _ _)
  | fdnSetrot i c sn =>
    unfold Machine.execFor execFdnSetrot
    refine h.withInst fun r => ?_
    rw [h.fdnAt]
    exact .next ((h.setFdn _ _).respond _ _)
  | fdnSetdamp i a =>
    unfold Machine.execFor execFdnSetdamp
    refine h.withInst fun r => ?_
    rw [h.fdnAt, h.draws]
    exact .next ((h.setFdn _ _).nextDraw.respond _ _)
  | fdnSetgain i g0 g1 g2 g3 w0 w1 w2 w3 =>
    unfold Machine.execFor execFdnSetgain
    refine h.withInst fun r => ?_
    rw [h.fdnAt]
    exact .next ((h.setFdn _ _).respond _ _)
  | fdnStep i x d m => exact h.fdnStep i x d m

end

/-- Settles O22. -/
theorem flagsAreNeverInputs : Obligations.FlagsAreNeverInputs := by
  intro i s s' t _ h hs hi hc he
  rw [exec_eq_execFor] at he ⊢
  exact Alike.execFor h hs hi hc t he

end Machine
end Sys2Proof
end

section
/-! PROOFS. SYS.RDCSR (10_state.md R58, 46_system.md R304). -/

namespace Sys2Proof
namespace Machine

theorem csrValue_cfg0 (s : State) : csrValue s .cfg0 = 0x0F07070F :=
  show csrCfg0 thisHardware = 0x0F07070F by decide

theorem csrValue_cfg1 (s : State) : csrValue s .cfg1 = 0x00011001 :=
  show csrCfg1 thisHardware = 0x00011001 by decide

theorem csrValue_mode {P : Params} (s : State P) :
    csrValue s .mode = if s.mode = .run then 1 else 0 := by
  show s.mode.bit = _
  cases s.mode <;> rfl

theorem headerWord_rdcsr (c : Csr) :
    headerWord (commandWord (.sysRdcsr c)) 0 1 = packWord 0x04 0 0 0 1 := by
  rw [headerWord, opcOf_commandWord, instOf_commandWord]
  show (0x04 : BitVec 8) ++ (0 : BitVec 8) ++ (0 : BitVec 8) ++ (1 : BitVec 8) =
    packWord 0x04 0 0 0 1
  decide

theorem acceptedPacket_rdcsr (c : Csr) (v : Word) :
    acceptedPacket (commandWord (.sysRdcsr c)) [v] = [packWord 0x04 0 0 0 1, v] :=
  congrArg (· :: [v]) (headerWord_rdcsr c)

theorem respond_sameBut {P : Params} (w : Word) (l : List Word) (s : State P) :
    SameBut [.rspOut] s (respond w l s) := by
  constructor <;> simp

/-- The register numbers above 6 are reserved (R95). -/
theorem Csr.ofField?_reserved {n : BitVec 4} (h : 6 < n.toNat) : Csr.ofField? n = none := by
  revert n
  decide

theorem decode_rdcsr_reserved {n : BitVec 4} (h : 6 < n.toNat) (args : List Word) :
    decode (packWord 0x04 0 0 n 0) args = .error .eMod := by
  have hop : Opcode.ofCode? 0x04 = some .sysRdcsr := rfl
  have hbuild : buildInstr .sysRdcsr 0 0 n args = none := by
    simp [buildInstr, Csr.ofField?_reserved h]
  simp only [decode, opcOf_packWord, instOf_packWord, varOf_packWord, selOf_packWord,
    nargField_packWord, hop, hbuild]
  rfl

/-- Settles O17. -/
theorem readRegisterEffect : Obligations.ReadRegisterEffect := by
  refine ⟨fun c s => ⟨_, execSysRdcsr_eq c s, respond_sameBut _ _ s, ?_⟩,
    fun n args h => decode_rdcsr_reserved h args⟩
  rw [respond_rspOut, acceptedPacket_rdcsr]
  cases c with
  | id => rfl
  | cfg0 => rw [csrValue_cfg0]
  | cfg1 => rw [csrValue_cfg1]
  | mode => rw [csrValue_mode]
  | status => simp [csrValue]
  | errInfo => rfl
  | errCode => simp [csrValue]

end Machine
end Sys2Proof
end

section
/-! PROOFS. The sample memory: a write replaces one slot of one buffer (20_memory.md R71, R72). -/

namespace Sys2Proof
namespace Machine

/-- A buffer with one slot's word replaced and no register changed (R72). -/
def RbInst.stored (b : RbInst) (k : Nat) (v : Word) : RbInst :=
  { b with storage := Memory.write b.storage k v }

theorem memWrite_eq_stored {b : RbInst} {k : Nat} (hv : b.valid = true)
    (hk : k < b.capacity.toNat) (v : Word) : memWrite b k v = .ok (b.stored k v) :=
  memWrite_ok v hv hk

theorem memRead_stored_self {b : RbInst} {k : Nat} (hwf : Memory.wf b.storage = true)
    (hv : b.valid = true) (hk : k < b.capacity.toNat) (v : Word) :
    memRead (b.stored k v) k = .ok v := by
  have hread : Memory.read (b.stored k v).storage k = v :=
    (Memory.read_write k k v hwf).trans (if_pos rfl)
  rw [memRead_ok (r := b.stored k v) hv hk, hread]

/-- The read of another slot stays as it was, also where it is the fault of a slot that does not
exist. -/
theorem memRead_stored_ne {b : RbInst} {j k : Nat} (hwf : Memory.wf b.storage = true) (hj : j ≠ k)
    (v : Word) : memRead (b.stored k v) j = memRead b j := by
  have hread : Memory.read (b.stored k v).storage j = Memory.read b.storage j :=
    (Memory.read_write k j v hwf).trans (if_neg hj)
  rw [memRead, memRead, hread]
  rfl

/-- Settles O26. -/
theorem memoryReadAfterWrite : Obligations.MemoryReadAfterWrite := by
  intro b k v hwf hv hk
  exact ⟨b.stored k v, memWrite_eq_stored hv hk v, rfl, Memory.wf_write k v hwf,
    memRead_stored_self hwf hv hk v, fun j hj => memRead_stored_ne hwf hj v⟩

end Machine
end Sys2Proof
end

section
/-! PROOFS. The shape of the ring buffers, which no hot-path command changes (20_memory.md R84,
60_exceptions.md R348). The only buffer write these commands make is `rb_write`, which replaces a slot
and `writeIndex`; every other update leaves the buffers alone. -/

namespace Sys2Proof
namespace Machine

variable {P : Params}

/-- The registers of a buffer that RB.CREATE gives it and RB.DESTROY takes. -/
def RbInst.shape (b : RbInst) : Bool × Word × Word := (b.valid, b.capacity, b.wrapMask)

theorem RbInst.shape_eq_iff {b c : RbInst} :
    b.shape = c.shape ↔ b.valid = c.valid ∧ b.capacity = c.capacity ∧ b.wrapMask = c.wrapMask := by
  simp [RbInst.shape]

theorem RbInst.written_shape (b : RbInst) (v : F32) : (b.written v).shape = b.shape := rfl

/-- Every ring buffer has in `t` the shape it has in `s`. -/
def ShapesKept (s t : State P) : Prop := ∀ j, (t.rbAt j).shape = (s.rbAt j).shape

/-- Where the result is a next state, that state keeps the shapes of `s`. -/
def ResultKeepsShapes (s : State P) (r : Result P) : Prop := ∀ t, r = .next t → ShapesKept s t

/-- The same of a computation that a fault can stop. -/
def RunKeepsShapes (s : State P) (x : Except Fault (State P)) : Prop :=
  ∀ t, x = .ok t → ShapesKept s t

theorem ShapesKept.of_rb_eq {s t : State P} (h : t.rb = s.rb) : ShapesKept s t := fun j => by
  rw [State.rbAt, State.rbAt, h]

theorem ShapesKept.refuse (s : State P) (w : Word) (e : CmdError) :
    ShapesKept s (refuse w e s) := .of_rb_eq (refuse_rb s w e)

theorem ShapesKept.writeTo {s u : State P} (h : ShapesKept s u) (r : Fin P.nRB) (v : F32) :
    ShapesKept s (u.writeTo r v) := by
  intro j
  rw [State.writeTo_rbAt]
  split_ifs with hrj
  · rw [RbInst.written_shape, hrj]
    exact h j
  · exact h j

/-- Only the buffers matter, so an update of another part may follow. -/
theorem ShapesKept.trans_rb_eq {s u t : State P} (h : ShapesKept s u) (ht : t.rb = u.rb) :
    ShapesKept s t := fun j => (ShapesKept.of_rb_eq ht j).trans (h j)

/-! ## Computations and checks -/

section
variable {s : State P}

theorem ResultKeepsShapes.next {t : State P} (h : ShapesKept s t) :
    ResultKeepsShapes s (.next t) := by
  rintro _ ⟨⟩
  exact h

theorem RunKeepsShapes.ok {t : State P} (h : ShapesKept s t) : RunKeepsShapes s (.ok t) := by
  rintro _ ⟨⟩
  exact h

theorem ResultKeepsShapes.nextOrFault {x : Except Fault (State P)} (h : RunKeepsShapes s x) :
    ResultKeepsShapes s (nextOrFault x) := fun t ht => h t (nextOrFault_eq_next.1 ht)

/-- A computation that begins with a value, such as a read, which changes no state. -/
theorem RunKeepsShapes.of_value {α : Type} {x : Except Fault α} {f : α → Except Fault (State P)}
    (h : ∀ a, RunKeepsShapes s (f a)) : RunKeepsShapes s (x >>= f) := by
  cases x with
  | ok a => exact h a
  | error e => exact fun _ ht => nomatch ht

/-- A computation that begins with a state, such as a write. -/
theorem RunKeepsShapes.bind {x : Except Fault (State P)} {f : State P → Except Fault (State P)}
    (hx : RunKeepsShapes s x) (h : ∀ u, ShapesKept s u → RunKeepsShapes s (f u)) :
    RunKeepsShapes s (x >>= f) := by
  cases x with
  | ok u => exact h u (hx u rfl)
  | error e => exact fun _ ht => nomatch ht

theorem ResultKeepsShapes.withInst {n : Nat} {i : Inst} {w : Word} {k : Fin n → Result P}
    (hk : ∀ r, ResultKeepsShapes s (k r)) : ResultKeepsShapes s (withInst n i w s k) := by
  rcases withInst_cases n i w s k with ⟨h, e⟩ | ⟨-, e⟩ <;> rw [e]
  · exact hk _
  · exact .next (.refuse s w _)

theorem ResultKeepsShapes.withBuffer {i : Inst} {w : Word} {k : Fin P.nRB → Result P}
    (hk : ∀ r, ResultKeepsShapes s (k r)) : ResultKeepsShapes s (withBuffer i w s k) := by
  rcases withBuffer_cases i w s k with ⟨h, -, e⟩ | ⟨h, -, e⟩ | ⟨-, e⟩ <;> rw [e]
  · exact hk _
  · exact .next (.refuse s w _)
  · exact .next (.refuse s w _)

theorem ShapesKept.ringWriteAt {u : State P} (h : ShapesKept s u) (r : Fin P.nRB) (v : F32) :
    RunKeepsShapes s (ringWriteAt u r v) := by
  rcases ringWriteAt_cases u r v with e | e <;> rw [e]
  · exact .ok (h.writeTo r v)
  · exact fun _ ht => nomatch ht

theorem RunKeepsShapes.writeLines (s : State P) (l : Vector (Fin P.nRB) 4) (x : Vector F32 4) :
    RunKeepsShapes s (writeLines s l x) :=
  .bind ((ShapesKept.of_rb_eq rfl).ringWriteAt _ _) fun _ h0 =>
  .bind (h0.ringWriteAt _ _) fun _ h1 =>
  .bind (h1.ringWriteAt _ _) fun _ h2 => h2.ringWriteAt _ _

end

/-! ## The hot path -/

theorem execFdnStep_keepsShapes (i : Inst) (x d m : F32) (s : State P) :
    ResultKeepsShapes s (execFdnStep i x d m s) := by
  unfold execFdnStep
  refine .withInst fun r => ?_
  dsimp only
  split_ifs with hbound
  · refine .nextOrFault <| .of_value fun l => ?_
    split_ifs with hvalid
    · exact .of_value fun t => .bind (.writeLines s l _) fun u hu => .ok (hu.trans_rb_eq rfl)
    · exact .ok (.refuse s _ _)
  · exact .next (.refuse s _ _)

/-- Every hot-path command keeps the shape of every buffer, on any PDC and from any state. -/
theorem execFor_keepsShapes {i : Instr} (hi : hotPath i = true) (s : State P) :
    ResultKeepsShapes s (execFor i s) := by
  cases i with
  | rbWrite i v =>
    unfold execFor execRbWrite
    exact .withBuffer fun r => .nextOrFault <|
      .bind ((ShapesKept.of_rb_eq rfl).ringWriteAt _ _) fun u hu => .ok (hu.trans_rb_eq rfl)
  | rbReadi i d =>
    unfold execFor execRbReadi
    exact .withBuffer fun r => .nextOrFault <| .of_value fun v => .ok (.of_rb_eq rfl)
  | rbReadf i p d =>
    unfold execFor execRbReadf
    exact .withBuffer fun r => .nextOrFault <| .of_value fun v => .ok (.of_rb_eq rfl)
  | oscProcess i wv f sr po =>
    unfold execFor execOscProcess
    exact .withInst fun r => .next (.of_rb_eq rfl)
  | smProcess i v x =>
    unfold execFor execSmProcess
    exact .withInst fun r => .next (.of_rb_eq rfl)
  | apfProcess i v p x d g =>
    unfold execFor execApfProcess
    exact .withBuffer fun r => .nextOrFault <| .of_value fun y =>
      .bind ((ShapesKept.of_rb_eq rfl).ringWriteAt _ _) fun u hu => .ok (hu.trans_rb_eq rfl)
  | combProcess i p x d g m =>
    unfold execFor execCombProcess
    exact .withBuffer fun r => .nextOrFault <| .of_value fun y =>
      .bind ((ShapesKept.of_rb_eq rfl).ringWriteAt _ _) fun u hu => .ok (hu.trans_rb_eq rfl)
  | fdnStep i x d m => exact execFdnStep_keepsShapes i x d m s
  | _ => exact absurd hi Bool.false_ne_true

/-- Settles O24. -/
theorem hotPathKeepsBufferShape : Obligations.HotPathKeepsBufferShape := by
  intro i s t hi _ he j
  rw [exec_eq_execFor] at he
  exact RbInst.shape_eq_iff.1 (execFor_keepsShapes hi s t he j)

end Machine
end Sys2Proof
end

section
/-! PROOFS. The decoder and the encoder are inverse, and the decoder's checks in their order
(30_encoding.md R90, R94, R95, R97). `buildInstr` is inverted once; the rest goes through that. -/

namespace Sys2Proof

open Machine

variable {P : Params}

/-! ## The encoder's fields -/

theorem Instr.operands_length (i : Instr) : i.operands.length = i.opcode.narg.toNat := by
  cases i <;> rfl

theorem nargOf_commandWord (i : Instr) : nargOf (commandWord i) = i.operands.length := by
  rw [nargOf, nargField_commandWord, i.operands_length]

/-- The range checks of a command are R94's, on the fields of its packet. -/
theorem Instr.wf_eq_instanceLegal (i : Instr) :
    i.wf P = instanceLegal i.opcode i.inst i.operands P := by
  cases i with
  | fdnBind i r0 r1 r2 r3 =>
    have hall : ([r0, r1, r2, r3].all fun a => decide (a.toNat < P.nRB)) =
        (bindOperandOk P r0 && bindOperandOk P r1 && bindOperandOk P r2 && bindOperandOk P r3) := by
      simp [bindOperandOk, Bool.and_assoc]
    exact congrArg (decide (i.toNat < P.nFDN) && ·) hall.symm
  | _ => exact (Bool.and_true _).symm

theorem lt_of_instanceLegal {o : Opcode} {n : Inst} {args : List Word}
    (h : instanceLegal o n args P = true) : n.toNat < o.instCount P :=
  of_decide_eq_true (Bool.and_eq_true_iff.1 h).1

theorem Instr.inst_lt_of_wf {i : Instr} (h : i.wf P = true) : i.inst.toNat < i.opcode.instCount P :=
  lt_of_instanceLegal (i.wf_eq_instanceLegal.symm.trans h)

/-! ## `buildInstr` -/

theorem buildInstr_encoded (i : Instr) :
    buildInstr i.opcode i.inst i.var i.sel i.operands = some i := by
  cases i with
  | sysRdcsr | rbReadf | fdCompute | oscProcess | smProcess | apfProcess | combProcess =>
    simp [buildInstr, Instr.opcode, Instr.inst, Instr.var, Instr.sel, Instr.operands, operand,
      zeroField?]
  | _ => rfl

/-- `i` has the opcode, the fields and the operand words it was built from; a SYS command drops INST,
which is lossless where INST is the 0 it must be (R94). -/
structure BuiltFrom (o : Opcode) (n : Inst) (v s : BitVec 4) (args : List Word) (i : Instr) :
    Prop where
  opcode : i.opcode = o
  inst : ∀ P, n.toNat < o.instCount P → i.inst = n
  var : i.var = v
  sel : i.sel = s
  operands : i.operands = (List.range o.narg.toNat).map (operand args)

section
variable {v s : BitVec 4} {i j : Instr}

/-- A command without modifiers. -/
theorem plain_eq_some (h : (do zeroField? v; zeroField? s; pure j) = some i) :
    v = 0 ∧ s = 0 ∧ j = i := by
  obtain ⟨_, hv, h⟩ := Option.bind_eq_some_iff.1 h
  obtain ⟨_, hs, h⟩ := Option.bind_eq_some_iff.1 h
  exact ⟨eq_zero_of_zeroField? hv, eq_zero_of_zeroField? hs, Option.some.inj h⟩

/-- A command with a modifier in SEL alone. -/
theorem modified_eq_some {α : Type} {f : BitVec 4 → Option α} {g : α → Instr}
    (h : (do zeroField? v; pure (g (← f s))) = some i) : v = 0 ∧ ∃ m, f s = some m ∧ g m = i := by
  obtain ⟨_, hv, h⟩ := Option.bind_eq_some_iff.1 h
  obtain ⟨m, hm, h⟩ := Option.bind_eq_some_iff.1 h
  exact ⟨eq_zero_of_zeroField? hv, m, hm, Option.some.inj h⟩

end

theorem eq_of_toNat_lt_one {n : Inst} (h : n.toNat < 1) : 0 = n :=
  BitVec.eq_of_toNat_eq (by simp; omega)

theorem builtFrom_of_buildInstr {o : Opcode} {n : Inst} {v s : BitVec 4} {args : List Word}
    {i : Instr} (h : buildInstr o n v s args = some i) : BuiltFrom o n v s args i := by
  cases o with
  | sysReset | sysPrepare | sysStart | sysClrstatus =>
    obtain ⟨rfl, rfl, rfl⟩ := plain_eq_some h
    exact ⟨rfl, fun _ => eq_of_toNat_lt_one, rfl, rfl, rfl⟩
  | sysRdcsr =>
    obtain ⟨rfl, m, hm, rfl⟩ := modified_eq_some h
    exact ⟨rfl, fun _ => eq_of_toNat_lt_one, rfl, Csr.code_of_ofField? hm, rfl⟩
  | rbReadf | combProcess =>
    obtain ⟨rfl, m, hm, rfl⟩ := modified_eq_some h
    exact ⟨rfl, fun _ _ => rfl, rfl, Policy.code_of_ofField? hm, rfl⟩
  | fdCompute =>
    obtain ⟨rfl, m, hm, rfl⟩ := modified_eq_some h
    exact ⟨rfl, fun _ _ => rfl, rfl, Shape.code_of_ofField? hm, rfl⟩
  | oscProcess =>
    obtain ⟨rfl, m, hm, rfl⟩ := modified_eq_some h
    exact ⟨rfl, fun _ _ => rfl, rfl, Wave.code_of_ofField? hm, rfl⟩
  | smProcess =>
    obtain ⟨rfl, m, hm, rfl⟩ := modified_eq_some h
    exact ⟨rfl, fun _ _ => rfl, rfl, SmVar.code_of_ofField? hm, rfl⟩
  | apfProcess =>
    obtain ⟨a, ha, h⟩ := Option.bind_eq_some_iff.1 h
    obtain ⟨m, hm, h⟩ := Option.bind_eq_some_iff.1 h
    cases Option.some.inj h
    exact ⟨rfl, fun _ _ => rfl, ApfVar.code_of_ofField? ha, Policy.code_of_ofField? hm, rfl⟩
  | rbCreate | rbDestroy | rbWrite | rbReadi | fdSetparam | fdGetcoef | smConfig | fdnBind
  | fdnSetlen | fdnSetrot | fdnSetdamp | fdnSetgain | fdnStep =>
    obtain ⟨rfl, rfl, rfl⟩ := plain_eq_some h
    exact ⟨rfl, fun _ _ => rfl, rfl, rfl, rfl⟩

theorem range_map_operand (args : List Word) :
    (List.range args.length).map (operand args) = args := by
  apply List.ext_getElem
  · simp
  · intro k _ hk
    simp [operand, hk]

theorem BuiltFrom.operands_eq {o : Opcode} {n : Inst} {v s : BitVec 4} {args : List Word}
    {i : Instr} (h : BuiltFrom o n v s args i) (hl : args.length = o.narg.toNat) :
    i.operands = args := by
  rw [h.operands, ← hl, range_map_operand]

/-! ### Legal modifiers -/

theorem Policy.ofField?_isSome (x : BitVec 4) :
    (Policy.ofField? x).isSome = decide (x.toNat ≤ 3) := by
  revert x; decide

theorem ApfVar.ofField?_isSome (x : BitVec 4) :
    (ApfVar.ofField? x).isSome = decide (x.toNat ≤ 1) := by
  revert x; decide

theorem Wave.ofField?_isSome (x : BitVec 4) :
    (Wave.ofField? x).isSome = decide (x.toNat ≤ 6) := by
  revert x; decide

theorem Shape.ofField?_isSome (x : BitVec 4) :
    (Shape.ofField? x).isSome = decide (x.toNat ≤ 12) := by
  revert x; decide

theorem SmVar.ofField?_isSome (x : BitVec 4) :
    (SmVar.ofField? x).isSome = decide (x.toNat ≤ 1) := by
  revert x; decide

theorem Csr.ofField?_isSome (x : BitVec 4) :
    (Csr.ofField? x).isSome = decide (x.toNat ≤ 6) := by
  revert x; decide

section
variable {v s : BitVec 4} {j : Instr}

theorem zeroField?_of_ne {x : BitVec 4} (h : x ≠ 0) : zeroField? x = none := if_neg h

theorem plain_isSome :
    (do zeroField? v; zeroField? s; pure j : Option Instr).isSome = decide (v = 0 ∧ s = 0) := by
  by_cases hv : v = 0
  · subst hv
    by_cases hs : s = 0
    · subst hs
      rfl
    · rw [zeroField?_of_ne hs]
      exact (decide_eq_false fun h => hs h.2).symm
  · rw [zeroField?_of_ne hv]
    exact (decide_eq_false fun h => hv h.1).symm

theorem modified_isSome {α : Type} {f : BitVec 4 → Option α} {g : α → Instr} {k : Nat}
    (hf : ∀ x, (f x).isSome = decide (x.toNat ≤ k)) :
    (do zeroField? v; pure (g (← f s)) : Option Instr).isSome =
      decide (v.toNat = 0 ∧ s.toNat ≤ k) := by
  by_cases hv : v = 0
  · subst hv
    calc (do zeroField? 0; pure (g (← f s)) : Option Instr).isSome
        _ = (f s).isSome := by cases f s <;> rfl
        _ = decide (s.toNat ≤ k) := hf s
        _ = decide ((0 : BitVec 4).toNat = 0 ∧ s.toNat ≤ k) := by simp
  · rw [zeroField?_of_ne hv]
    exact (decide_eq_false fun h => hv (BitVec.eq_of_toNat_eq h.1)).symm

theorem twoModified_isSome {α β : Type} (x : Option α) (y : Option β) (g : α → β → Instr) :
    (do pure (g (← x) (← y)) : Option Instr).isSome = (x.isSome && y.isSome) := by
  cases x <;> cases y <;> rfl

end

/-- Step 3 of R97 passes exactly for the values that R94 and R95 list. -/
theorem buildInstr_isSome (o : Opcode) (n : Inst) (v s : BitVec 4) (args : List Word) :
    (buildInstr o n v s args).isSome = modifiersLegal o v s := by
  cases o with
  | sysRdcsr => exact modified_isSome Csr.ofField?_isSome
  | rbReadf | combProcess => exact modified_isSome Policy.ofField?_isSome
  | fdCompute => exact modified_isSome Shape.ofField?_isSome
  | oscProcess => exact modified_isSome Wave.ofField?_isSome
  | smProcess => exact modified_isSome SmVar.ofField?_isSome
  | apfProcess =>
    refine (twoModified_isSome _ _ _).trans ?_
    rw [ApfVar.ofField?_isSome, Policy.ofField?_isSome, ← Bool.decide_and]
    rfl
  | _ => exact plain_isSome

/-! ## `decode`, one lemma per check of R97 -/

section
variable {w : Word} {args : List Word} {o : Opcode} {i : Instr}

theorem ofCode?_of_code (ho : o.code = opcOf w) : Opcode.ofCode? (opcOf w) = some o := by
  rw [← ho, Opcode.ofCode?_code]

theorem decode_unassigned (h : ∀ o : Opcode, o.code ≠ opcOf w) :
    decode w args P = .error .eOpcode := by
  have hnone : Opcode.ofCode? (opcOf w) = none :=
    Option.eq_none_iff_forall_ne_some.2 fun o ho => h o (Opcode.code_of_ofCode? ho)
  rw [decode, hnone]

theorem decode_wrongLength (ho : o.code = opcOf w) (hn : nargField w ≠ o.narg) :
    decode w args P = .error .eLength := by
  simp only [decode, ofCode?_of_code ho, if_pos hn]

theorem decode_illegalModifier (ho : o.code = opcOf w) (hn : nargField w = o.narg)
    (hb : buildInstr o (instOf w) (varOf w) (selOf w) args = none) :
    decode w args P = .error .eMod := by
  simp only [decode, ofCode?_of_code ho, if_neg (not_not.2 hn), hb]

theorem decode_built (ho : o.code = opcOf w) (hn : nargField w = o.narg)
    (hb : buildInstr o (instOf w) (varOf w) (selOf w) args = some i) :
    decode w args P =
      if (instOf w).toNat < o.instCount P ∧ i.wf P then .ok i else .error .eInst := by
  simp only [decode, ofCode?_of_code ho, if_neg (not_not.2 hn), hb]

/-- The word and the operand words of a packet that passes every check. -/
theorem decode_eq_ok (h : decode w args P = .ok i) :
    i.wf P = true ∧ commandWord i = w ∧ (args.length = nargOf w → i.operands = args) := by
  by_cases ho : ∃ o : Opcode, o.code = opcOf w
  · obtain ⟨o, ho⟩ := ho
    by_cases hn : nargField w = o.narg
    · cases hb : buildInstr o (instOf w) (varOf w) (selOf w) args with
      | none => rw [decode_illegalModifier ho hn hb] at h; cases h
      | some j =>
        rw [decode_built ho hn hb] at h
        split_ifs at h with hchecks
        obtain ⟨hinst, hwf⟩ := hchecks
        cases h
        have hj := builtFrom_of_buildInstr hb
        refine ⟨hwf, ?_, fun hl => hj.operands_eq (by rw [hl, nargOf, hn])⟩
        rw [commandWord, hj.opcode, hj.inst P hinst, hj.var, hj.sel, ho, ← hn, packWord_fields]
    · rw [decode_wrongLength ho hn] at h
      cases h
  · rw [decode_unassigned (not_exists.1 ho)] at h
    cases h

/-- The range checks of a command built from a packet are R94's, on the packet's own fields. -/
theorem BuiltFrom.instanceLegal_iff (hj : BuiltFrom o (instOf w) (varOf w) (selOf w) args i)
    (hl : args.length = o.narg.toNat) :
    ((instOf w).toNat < o.instCount P ∧ i.wf P = true) ↔
      instanceLegal o (instOf w) args P = true := by
  have hwf (hinst : (instOf w).toNat < o.instCount P) :
      i.wf P = instanceLegal o (instOf w) args P := by
    rw [i.wf_eq_instanceLegal, hj.opcode, hj.inst P hinst, hj.operands_eq hl]
  exact ⟨fun ⟨hinst, h⟩ => hwf hinst ▸ h,
    fun h => ⟨lt_of_instanceLegal h, (hwf (lt_of_instanceLegal h)).trans h⟩⟩

end

theorem decode_encoded {i : Instr} (h : i.wf P = true) :
    decode (commandWord i) i.operands P = .ok i := by
  have hb : buildInstr i.opcode (instOf (commandWord i)) (varOf (commandWord i))
      (selOf (commandWord i)) i.operands = some i := by
    simpa using buildInstr_encoded i
  rw [decode_built (opcOf_commandWord i).symm (nargField_commandWord i) hb, instOf_commandWord,
    if_pos ⟨Instr.inst_lt_of_wf h, h⟩]

/-- Settles O3: legal modifiers build a command, and its range checks are those of the packet. -/
theorem decodeCheckOrder : Obligations.DecodeCheckOrder := by
  refine fun w args => ⟨decode_unassigned, fun o ho => ⟨decode_wrongLength ho, fun hn hl => ?_⟩⟩
  have hlen : args.length = o.narg.toNat := by rw [hl, nargOf, hn]
  rw [← buildInstr_isSome o (instOf w) (varOf w) (selOf w) args]
  refine ⟨fun hm => ?_, fun hm => ?_⟩
  · rw [Option.isSome_eq_false_iff, Option.isNone_iff_eq_none] at hm
    exact decode_illegalModifier ho hn hm
  obtain ⟨i, hb⟩ := Option.isSome_iff_exists.1 hm
  have hbuilt := builtFrom_of_buildInstr hb
  have hlegal := hbuilt.instanceLegal_iff (P := thisHardware) hlen
  constructor
  · intro hi
    rw [decode_built ho hn hb, if_neg fun h => by simp [hlegal.1 h] at hi]
  · intro hi
    have hok : decode w args = .ok i := by rw [decode_built ho hn hb, if_pos (hlegal.2 hi)]
    obtain ⟨hwf, hword, hops⟩ := decode_eq_ok hok
    exact ⟨i, hok, hwf, hbuilt.opcode, hword, hops hl⟩

/-- Settles O1: NARG tells where the packet ends, and its words decode to the command. -/
theorem decodeOfEncode : Obligations.DecodeOfEncode := by
  intro i rest hwf
  have hlen : nargOf (commandWord i) = i.operands.length := nargOf_commandWord i
  rw [encode, List.cons_append, decodePacket, if_neg (by simp [hlen]), hlen, List.take_left,
    List.drop_left, decode_encoded hwf]

/-- Settles O2: the words of the packet are the fields and the operands that `decode` read. -/
theorem encodeOfDecode : Obligations.EncodeOfDecode := by
  intro words rest i h
  obtain ⟨w, ws, rfl, hlen, hdec, rfl⟩ := decodePacket_eq_command h
  obtain ⟨hwf, rfl, hops⟩ := decode_eq_ok hdec
  refine ⟨hwf, ?_⟩
  rw [encode, hops (List.length_take_of_le hlen), List.cons_append, List.take_append_drop]

end Sys2Proof
end

section
/-! PROOFS. A step on a packet that the decoder refuses (30_encoding.md R91, R97, 60_exceptions.md
R324). A packet longer than the buffer keeps is refused by its command word alone, so nothing is lost
by dropping its last words. -/

namespace Sys2Proof
namespace Machine

variable {P : Params} {w : Word} {e : CmdError}

/-- No command has more operand words than are kept: of a longer packet `decode` reads none. -/
theorem decode_of_kept_lt (h : keptOperands < nargOf w) (a b : List Word) :
    decode w a P = decode w b P := by
  by_cases ho : ∃ o : Opcode, o.code = opcOf w
  · obtain ⟨o, ho⟩ := ho
    have hn : nargField w ≠ o.narg := fun hn => by
      have := Opcode.narg_le_kept o
      rw [nargOf, hn] at h
      omega
    rw [decode_wrongLength ho hn, decode_wrongLength ho hn]
  · rw [decode_unassigned (not_exists.1 ho), decode_unassigned (not_exists.1 ho)]

theorem decode_keepOperands {args : List Word} (h : args.length = nargOf w) :
    decode w (keepOperands [] args) P = decode w args P := by
  by_cases hk : args.length ≤ keptOperands
  · rw [keepOperands_of_length_le hk]
  · exact decode_of_kept_lt (by omega) _ _

theorem receive_of_decodePacket_refused {words rest : List Word}
    (h : decodePacket words P = .refused w e rest) :
    ∃ args, receive PacketBuf.empty words = .packet w args rest ∧ decode w args P = .error e := by
  cases words with
  | nil => cases h
  | cons w' ws =>
    rw [decodePacket] at h
    split_ifs at h with hlen
    split at h
    · next e' he =>
      obtain ⟨rfl, rfl, rfl⟩ := Decoded.refused.inj h
      have hkept := decode_keepOperands (P := P) (List.length_take_of_le (not_lt.1 hlen))
      exact ⟨_, by rw [receive_empty, if_neg hlen], hkept.trans he⟩
    · cases h

theorem runPacket_of_refusal {run : Instr → State P → Result P} {args : List Word}
    (h : decode w args P = .error e) (s : State P) :
    runPacket run w args s = .next (refuse w e s) := by
  rw [runPacket, h]

/-- Settles O6. -/
theorem stepRefusesIllegalPacket : Obligations.StepRefusesIllegalPacket := by
  intro s w e rest hrst hpkt hdec
  obtain ⟨args, hrecv, herr⟩ := receive_of_decodePacket_refused hdec
  have hstep : step s = .next (refuse w e (s.setCmdIn rest)) :=
    calc step s = runPacket exec w args (s.afterPacket rest) :=
          stepWith_packet hrst (by rw [hpkt, hrecv])
      _ = .next (refuse w e (s.afterPacket rest)) := runPacket_of_refusal herr _
      _ = .next (refuse w e (s.setCmdIn rest)) := by rw [afterPacket_of_pkt_empty hpkt]
  exact ⟨_, hstep, refuse_refusedAs w e _⟩

end Machine
end Sys2Proof
end

section
/-! PROOFS. Every command in range completes with one answer, an acceptance or the refusal that the
checks of 60_exceptions.md R322 name; so every completed packet is answered once (30_encoding.md
R100). -/

namespace Sys2Proof
namespace Machine

variable {P : Params} {s : State P}

/-! ## What the checks answer -/

section
variable {i : Instr}

theorem refusalOf_mode (hp : prepareOnly i = true) (hm : s.mode ≠ .prepare) :
    refusalOf s i = some .eMode := by
  have hrun : s.mode = .run := by
    cases h : s.mode with
    | prepare => exact absurd h hm
    | run => rfl
  rw [refusalOf, if_pos ⟨hp, hrun⟩]

theorem not_refused_by_mode (hp : prepareOnly i = false ∨ s.mode = .prepare) :
    ¬ (prepareOnly i ∧ s.mode = .run) := by
  rintro ⟨hpi, hrun⟩
  rcases hp with hp | hp
  · simp [hp] at hpi
  · simp [hp] at hrun

theorem refusalOf_nobuf (hp : prepareOnly i = false) (hb : buffersReady s i = false) :
    refusalOf s i = some .eNobuf := by
  rw [refusalOf, if_neg (not_refused_by_mode (.inl hp)), if_pos hb]

theorem refusalOf_capacity (hm : s.mode = .prepare) (hb : buffersReady s i = true)
    (hc : capacityFits i P = false) : refusalOf s i = some .eCapacity := by
  rw [refusalOf, if_neg (not_refused_by_mode (.inr hm)), if_neg (by simp [hb]), if_pos hc]

theorem refusalOf_none (hp : prepareOnly i = false ∨ s.mode = .prepare)
    (hb : buffersReady s i = true) (hc : capacityFits i P = true) : refusalOf s i = none := by
  rw [refusalOf, if_neg (not_refused_by_mode hp), if_neg (by simp [hb]), if_neg (by simp [hc])]

/-- The checks read the instances and the mode alone. -/
theorem refusalOf_afterPacket (s : State P) (rest : List Word) (i : Instr) :
    refusalOf (s.afterPacket rest) i = refusalOf s i := rfl

theorem validAt_of_lt {n : Nat} (h : n < P.nRB) : validAt s n = (s.rbAt ⟨n, h⟩).valid := dif_pos h

theorem networkReady_iff {n : Nat} (h : n < P.nFDN) (hf : (s.fdnAt ⟨n, h⟩).Inv P) :
    networkReady s n = true ↔ (s.fdnAt ⟨n, h⟩).bound = true ∧
      ∀ k : Fin 4, (s.rbAt ((s.fdnAt ⟨n, h⟩).lines hf)[k]).valid = true := by
  have hline (k : Fin 4) : validAt s (s.fdnAt ⟨n, h⟩).line[k].toNat =
      (s.rbAt ((s.fdnAt ⟨n, h⟩).lines hf)[k]).valid := by
    rw [validAt_of_lt (hf k)]
    fin_cases k <;> rfl
  simp only [networkReady, dif_pos h, Bool.and_eq_true, decide_eq_true_iff, hline]

end

/-! ## Running a command -/

/-- The outcomes of the command `i` in the state `s` that R322 and R324 allow: the refusal its checks
name, or, where they name none, an answer with the number of results R94 lists. -/
inductive Completes (i : Instr) (s : State P) : Result P → Prop
  | refused {e : CmdError} (he : refusalOf s i = some e) :
      Completes i s (.next (refuse (commandWord i) e s))
  | accepted {t : State P} {l : List Word} (hnone : refusalOf s i = none)
      (ht : t.rspOut = s.rspOut) (hl : l.length = resultCount i) :
      Completes i s (.next (respond (commandWord i) l t))

section
variable {i : Instr} {r : Result P} {t : State P} {l : List Word} {e : CmdError}

theorem Completes.of_refuse (hr : r = .next (refuse (commandWord i) e s))
    (he : refusalOf s i = some e) : Completes i s r :=
  hr ▸ .refused he

theorem Completes.of_respond (hr : r = .next (respond (commandWord i) l t))
    (hnone : refusalOf s i = none) (ht : t.rspOut = s.rspOut) (hl : l.length = resultCount i) :
    Completes i s r :=
  hr ▸ .accepted hnone ht hl

/-- A command on one ring buffer, answered where the buffer is valid. -/
theorem Completes.of_buffer {n : Inst} (h : n.toNat < P.nRB) (hp : prepareOnly i = false)
    (hb : buffersReady s i = validAt s n.toNat) (hc : capacityFits i P = true)
    (hvalid : (s.rbAt ⟨n.toNat, h⟩).valid = true → ∃ t l,
      r = .next (respond (commandWord i) l t) ∧ t.rspOut = s.rspOut ∧ l.length = resultCount i)
    (hinvalid : (s.rbAt ⟨n.toNat, h⟩).valid = false →
      r = .next (refuse (commandWord i) .eNobuf s)) : Completes i s r := by
  rw [validAt_of_lt h] at hb
  cases hv : (s.rbAt ⟨n.toNat, h⟩).valid with
  | true =>
    obtain ⟨t, l, hr, ht, hl⟩ := hvalid hv
    exact .of_respond hr (refusalOf_none (.inl hp) (hb.trans hv) hc) ht hl
  | false => exact .of_refuse (hinvalid hv) (refusalOf_nobuf hp (hb.trans hv))

/-- A PREPARE-only command. -/
theorem Completes.of_prepareOnly (hp : prepareOnly i = true)
    (hprepare : s.mode = .prepare → Completes i s r)
    (hrun : s.mode ≠ .prepare → r = .next (refuse (commandWord i) .eMode s)) :
    Completes i s r := by
  by_cases hm : s.mode = .prepare
  · exact hprepare hm
  · exact .of_refuse (hrun hm) (refusalOf_mode hp hm)

end

theorem execFdnStep_notReady {i : Inst} (h : i.toNat < P.nFDN)
    (hf : (s.fdnAt ⟨i.toNat, h⟩).Inv P) (hr : ¬ networkReady s i.toNat = true) (x d m : F32) :
    execFdnStep i x d m s = .next (refuse (commandWord (.fdnStep i x d m)) .eNobuf s) := by
  rw [networkReady_iff h hf, not_and] at hr
  cases hb : (s.fdnAt ⟨i.toNat, h⟩).bound with
  | true => exact execFdnStep_invalid h hf hb (hr hb) x d m
  | false => exact execFdnStep_unbound h hb x d m

theorem completes_fdnStep {i : Inst} (h : i.toNat < P.nFDN) (hs : s.Inv) (x d m : F32) :
    Completes (.fdnStep i x d m) s (execFdnStep i x d m s) := by
  have hf := hs.fdn ⟨i.toNat, h⟩
  by_cases hready : networkReady s i.toNat = true
  · obtain ⟨hb, hv⟩ := (networkReady_iff h hf).1 hready
    exact .of_respond (execFdnStep_ok h hs.rb hf hb hv x d m)
      (refusalOf_none (.inl rfl) hready rfl) rfl rfl
  · exact .of_refuse (execFdnStep_notReady h hf hready x d m)
      (refusalOf_nobuf rfl (Bool.eq_false_iff.2 hready))

theorem completes_rbCreate {i : Inst} (h : i.toNat < P.nRB) (n : Word) :
    Completes (.rbCreate i n) s (execRbCreate i n s) := by
  refine .of_prepareOnly rfl (fun hm => ?_) fun hm => execRbCreate_mode h hm n
  by_cases hn : n.toNat ≤ P.capMax
  · exact .of_respond (execRbCreate_ok h hm hn)
      (refusalOf_none (.inr hm) rfl (decide_eq_true hn)) rfl rfl
  · exact .of_refuse (execRbCreate_capacity h hm (not_le.1 hn))
      (refusalOf_capacity hm rfl (decide_eq_false hn))

theorem completes_fdnBind {i : Inst} {r0 r1 r2 r3 : Word}
    (hwf : (Instr.fdnBind i r0 r1 r2 r3).wf P = true) :
    Completes (.fdnBind i r0 r1 r2 r3) s (execFdnBind i r0 r1 r2 r3 s) := by
  obtain ⟨hi, hb⟩ := Bool.and_eq_true_iff.1 hwf
  have h : i.toNat < P.nFDN := of_decide_eq_true hi
  exact .of_prepareOnly rfl
    (fun hm => .of_respond (execFdnBind_ok h hm hb) (refusalOf_none (.inr hm) rfl rfl) rfl rfl)
    fun hm => execFdnBind_mode h hm hb

/-- Every command in range completes, on any PDC whose state meets the invariant. -/
theorem execFor_completes {i : Instr} (hwf : i.wf P = true) (hs : s.Inv) :
    Completes i s (execFor i s) := by
  have h := Instr.inst_lt_of_wf hwf
  cases i with
  | sysReset => exact .of_respond (execSysReset_eq s) rfl rfl rfl
  | sysPrepare => exact .of_respond (execSysPrepare_eq s) rfl rfl rfl
  | sysStart => exact .of_respond (execSysStart_eq s) rfl rfl rfl
  | sysRdcsr c => exact .of_respond (execSysRdcsr_eq c s) rfl rfl rfl
  | sysClrstatus m =>
    refine .of_respond (execSysClrstatus_eq m s) rfl ?_ rfl
    unfold clearStatus
    split_ifs <;> rfl
  | rbCreate i n => exact completes_rbCreate h n
  | rbDestroy i =>
    exact .of_prepareOnly rfl
      (fun hm => .of_respond (execRbDestroy_ok h hm) (refusalOf_none (.inr hm) rfl rfl) rfl rfl)
      fun hm => execRbDestroy_mode h hm
  | rbWrite i v =>
    exact .of_buffer h rfl rfl rfl (fun hv => ⟨_, _, execRbWrite_ok h (hs.rb _) hv v, rfl, rfl⟩)
      fun hv => execRbWrite_nobuf h hv v
  | rbReadi i d =>
    exact .of_buffer h rfl rfl rfl (fun hv => ⟨_, _, execRbReadi_ok h (hs.rb _) hv d, rfl, rfl⟩)
      fun hv => execRbReadi_nobuf h hv d
  | rbReadf i p d =>
    exact .of_buffer h rfl rfl rfl (fun hv => ⟨_, _, execRbReadf_ok h (hs.rb _) hv p d, rfl, rfl⟩)
      fun hv => execRbReadf_nobuf h hv p d
  | fdSetparam i c sr q g => exact .of_respond (execFdSetparam_ok h c sr q g) rfl rfl rfl
  | fdCompute i sh => exact .of_respond (execFdCompute_ok h sh) rfl rfl rfl
  | fdGetcoef i => exact .of_respond (execFdGetcoef_ok h) rfl rfl rfl
  | oscProcess i wv f sr po => exact .of_respond (execOscProcess_ok h wv f sr po) rfl rfl rfl
  | smConfig i ms sr => exact .of_respond (execSmConfig_ok h ms sr) rfl rfl rfl
  | smProcess i v x => exact .of_respond (execSmProcess_ok h v x) rfl rfl rfl
  | apfProcess i v p x d g =>
    exact .of_buffer h rfl rfl rfl
      (fun hv => ⟨_, _, execApfProcess_ok h (hs.rb _) hv v p x d g, rfl, rfl⟩)
      fun hv => execApfProcess_nobuf h hv v p x d g
  | combProcess i p x d g m =>
    exact .of_buffer h rfl rfl rfl
      (fun hv => ⟨_, _, execCombProcess_ok h (hs.rb _) hv p x d g m, rfl, rfl⟩)
      fun hv => execCombProcess_nobuf h hv p x d g m
  | fdnBind i r0 r1 r2 r3 => exact completes_fdnBind hwf
  | fdnSetlen i l0 l1 l2 l3 => exact .of_respond (execFdnSetlen_ok h l0 l1 l2 l3) rfl rfl rfl
  | fdnSetrot i c sn => exact .of_respond (execFdnSetrot_ok h c sn) rfl rfl rfl
  | fdnSetdamp i a => exact .of_respond (execFdnSetdamp_ok h a) rfl rfl rfl
  | fdnSetgain i g0 g1 g2 g3 w0 w1 w2 w3 =>
    exact .of_respond (execFdnSetgain_ok h g0 g1 g2 g3 w0 w1 w2 w3) rfl rfl rfl
  | fdnStep i x d m => exact completes_fdnStep h hs x d m

theorem exec_completes {i : Instr} {s : State} (hwf : i.wf = true) (hs : s.Inv) :
    Completes i s (exec i s) :=
  exec_eq_execFor i s ▸ execFor_completes hwf hs

/-! ## The response header (R100) -/

section
variable (w : Word) (err nres : BitVec 8)

/-- A response header as a number. -/
theorem headerWord_toNat : (headerWord w err nres).toNat =
    (opcOf w).toNat * 2 ^ 24 + (instOf w).toNat * 2 ^ 16 + err.toNat * 2 ^ 8 + nres.toNat := by
  have := (instOf w).isLt; have := err.isLt; have := nres.isLt
  rw [headerWord, BitVec.toNat_append, BitVec.toNat_append, BitVec.toNat_append,
    ← Nat.shiftLeft_add_eq_or_of_lt (by omega), ← Nat.shiftLeft_add_eq_or_of_lt (by omega),
    ← Nat.shiftLeft_add_eq_or_of_lt (by omega)]
  simp only [Nat.shiftLeft_eq]
  omega

theorem opcOf_headerWord :
    opcOf (headerWord w err nres) = opcOf w := by
  have := (opcOf w).isLt; have := (instOf w).isLt; have := err.isLt; have := nres.isLt
  apply BitVec.eq_of_toNat_eq
  rw [opcOf, extractLsb'_toNat_div, headerWord_toNat]
  omega

theorem instOf_headerWord :
    instOf (headerWord w err nres) = instOf w := by
  have := (opcOf w).isLt; have := (instOf w).isLt; have := err.isLt; have := nres.isLt
  apply BitVec.eq_of_toNat_eq
  rw [instOf, extractLsb'_toNat_div, headerWord_toNat]
  omega

theorem errField_headerWord :
    (headerWord w err nres).extractLsb' 8 8 = err := by
  have := (opcOf w).isLt; have := (instOf w).isLt; have := err.isLt; have := nres.isLt
  apply BitVec.eq_of_toNat_eq
  rw [extractLsb'_toNat_div, headerWord_toNat]
  omega

theorem nresField_headerWord :
    (headerWord w err nres).extractLsb' 0 8 = nres := by
  have := (opcOf w).isLt; have := (instOf w).isLt; have := err.isLt; have := nres.isLt
  apply BitVec.eq_of_toNat_eq
  rw [extractLsb'_toNat_div, headerWord_toNat]
  omega

end

/-- NRES can say how many results any command has. -/
theorem resultCount_lt (i : Instr) : resultCount i < 2 ^ 8 := by
  cases i <;> simp [resultCount]

/-- What a step answers to a complete packet: an acceptance, where the packet decodes to a command
that the checks pass; otherwise the refusal of the decoder or of the checks. -/
theorem step_packet_cases {s : State} {w : Word} {args rest : List Word} (hs : s.Inv)
    (hrst : s.rstN = true) (hr : receive s.pkt s.cmdIn = .packet w args rest) :
    (∃ i t l, decode w args = .ok i ∧ refusalOf s i = none ∧ l.length = resultCount i ∧
        t.rspOut = s.rspOut ∧ step s = .next (respond w l t)) ∨
      (∃ e, (decode w args = .error e ∨ ∃ i, decode w args = .ok i ∧ refusalOf s i = some e) ∧
        step s = .next (refuse w e (s.afterPacket rest))) := by
  have hstep : step s = runPacket exec w args (s.afterPacket rest) := stepWith_packet hrst hr
  cases hd : decode w args with
  | error e => exact .inr ⟨e, .inl rfl, hstep.trans (runPacket_of_refusal hd _)⟩
  | ok i =>
    obtain ⟨hwf, rfl, -⟩ := decode_eq_ok hd
    have hcompletes := exec_completes hwf (hs.afterPacket rest)
    rw [runPacket_of_decode hd] at hstep
    generalize exec i (s.afterPacket rest) = r at hcompletes hstep
    cases hcompletes with
    | refused he => exact .inr ⟨_, .inr ⟨i, rfl, he⟩, hstep⟩
    | accepted hnone ht hl => exact .inl ⟨i, _, _, rfl, hnone, hl, ht, hstep⟩

/-- Settles O8: either answer is one header, followed by the results it counts. -/
theorem everyPacketAnsweredOnce : Obligations.EveryPacketAnsweredOnce := by
  intro s w args rest hs hrst hr
  obtain ⟨i, t, l, hd, hnone, hl, ht, hstep⟩ | ⟨e, he, hstep⟩ := step_packet_cases hs hrst hr
  · have hcount : (BitVec.ofNat 8 l.length).toNat = l.length := by
      rw [BitVec.toNat_ofNat, Nat.mod_eq_of_lt (hl ▸ resultCount_lt i)]
    have hrsp : (respond w l t).rspOut =
        s.rspOut ++ headerWord w 0 (BitVec.ofNat 8 l.length) :: l := by
      rw [respond_rspOut, ht, acceptedPacket]
    exact ⟨_, _, l, hstep, hrsp, opcOf_headerWord .., instOf_headerWord ..,
      by rw [nresField_headerWord, hcount],
      .inl ⟨i, hd, hnone, errField_headerWord .., hl⟩⟩
  · exact ⟨_, _, [], hstep, refuse_rspOut .., opcOf_headerWord .., instOf_headerWord ..,
      by rw [nresField_headerWord]; rfl, .inr ⟨e, he, errField_headerWord .., rfl⟩⟩

end Machine
end Sys2Proof
end

section
/-! PROOFS. The worked packets of 30_encoding.md R106. -/

namespace Sys2Proof
namespace Machine

/-- Settles O4: each of the thirteen packets is the encoding of its command; the assembly lines are
read by evaluation. -/
theorem workedPackets : Obligations.WorkedPackets :=
  ⟨decodeOfEncode (.rbCreate 3 101) [] rfl,
    decodeOfEncode (.rbWrite 3 0x3F800000) [] rfl,
    decodeOfEncode (.rbReadi 3 1) [] rfl,
    decodeOfEncode (.rbReadf 3 .hermite 0x40200000) [] rfl,
    decodeOfEncode (.rbReadf 3 .none 0x40200000) [] rfl,
    decodeOfEncode (.fdCompute 0 .flat) [] rfl,
    decodeOfEncode (.fdGetcoef 0) [] rfl,
    decodeOfEncode (.oscProcess 1 .phasor 0x3F800000 0x473B8000 0) [] rfl,
    decodeOfEncode (.smProcess 2 .snap 0x3F000000) [] rfl,
    decodeOfEncode (.apfProcess 4 .gerzon .none 0x3F800000 0x40000000 0x3F000000) [] rfl,
    decodeOfEncode (.combProcess 0 .none 0x3F800000 0x42C80000 0x3F000000 0x3F800000) [] rfl,
    decodeOfEncode (.sysRdcsr .status) [] rfl,
    decodeOfEncode .sysStart [] rfl,
    by decide +kernel, rfl, rfl⟩

end Machine
end Sys2Proof
end

section
/-! PROOFS. RB.CREATE, RB.DESTROY, RB.WRITE and RB.READI (40_ring_buffer.md R131 to R141), each from
the equation of its answer. -/

namespace Sys2Proof
namespace Machine

variable {P : Params} {s : State P}

/-! ## The capacity -/

theorem le_npot (n : Nat) : n ≤ npot n := by
  unfold npot
  split_ifs with hn
  · exact hn
  · have := Nat.lt_log2_self (n := n - 1)
    omega

theorem npot_le_two_pow {n k : Nat} (h : n ≤ 2 ^ k) : npot n ≤ 2 ^ k := by
  obtain ⟨j, hj, hn⟩ := npot_eq_two_pow h
  rw [hn]
  exact Nat.pow_le_pow_right Nat.two_pos hj

/-- Settles O27. -/
theorem capacityIsSmallestPowerOfTwo : Obligations.CapacityIsSmallestPowerOfTwo := by
  intro n
  obtain ⟨j, -, hn⟩ := npot_eq_two_pow (Nat.lt_two_pow_self (n := n)).le
  exact ⟨⟨j, hn⟩, le_npot n, hn ▸ Nat.one_le_two_pow, fun k hk => npot_le_two_pow hk⟩

theorem freshBuffer_capacity {n : Word} (h : n.toNat ≤ P.capMax) :
    (freshBuffer n).capacity.toNat = npot n.toNat := by
  have hmax : 2 ^ P.capLog2Max ≤ 2 ^ 31 :=
    Nat.pow_le_pow_right Nat.two_pos P.capLog2Max_bound
  have hle : npot n.toNat ≤ 2 ^ P.capLog2Max := npot_le_two_pow h
  exact (BitVec.toNat_ofNat _ _).trans (Nat.mod_eq_of_lt (by omega))

theorem RbInst.Inv.wrapMask_eq {b : RbInst} (h : b.Inv P) (hv : b.valid = true) :
    b.wrapMask.toNat = b.capacity.toNat - 1 := by
  obtain ⟨k, -, hc, hm, -⟩ := h.1 hv
  rw [hm, hc]

/-! ## Answers of a command on one buffer -/

theorem respond_setRb_sameBut (w : Word) (l : List Word) (s : State P) (r : Fin P.nRB)
    (b : RbInst) : SameBut [.rb, .rspOut] s (respond w l (s.setRb r b)) := by
  constructor <;> simp

theorem respond_setRb_rbAt_ne (w : Word) (l : List Word) (s : State P) (b : RbInst)
    {r j : Fin P.nRB} (h : j ≠ r) : (respond w l (s.setRb r b)).rbAt j = s.rbAt j := by
  rw [respond_rbAt, State.setRb_rbAt_ne s b h.symm]

theorem State.setRb_rbAt_rb (s : State P) (r : Fin P.nRB) : (s.setRb r (s.rbAt r)).rb = s.rb := by
  simp [State.rbAt]

theorem State.mode_ne_prepare (h : s.mode = .run) : s.mode ≠ .prepare := by
  rw [h]
  decide

/-- A command whose answer is a refusal. -/
theorem refused_of_eq {r : Result P} {w : Word} {e : CmdError} (h : r = .next (refuse w e s)) :
    ∃ t, r = .next t ∧ RefusedAs w e s t :=
  ⟨_, h, refuse_refusedAs w e s⟩

/-! ## The commands -/

/-- Settles O28. -/
theorem rbCreateEffect : Obligations.RbCreateEffect := by
  intro i n s h
  refine ⟨fun hm hn => ?_, fun hm => refused_of_eq (execRbCreate_mode h (s.mode_ne_prepare hm) n),
    fun hm hn => refused_of_eq (execRbCreate_capacity h hm hn)⟩
  have hcap := freshBuffer_capacity hn
  have hmask := (freshBuffer_inv hn).wrapMask_eq rfl
  refine ⟨_, execRbCreate_ok h hm hn, respond_setRb_sameBut .., ?_⟩
  rw [respond_rbAt, State.setRb_rbAt_self]
  exact ⟨rfl, hcap, by rw [hmask, hcap], rfl, fun k hk => memRead_ok rfl (by rwa [hcap]),
    fun j hj => respond_setRb_rbAt_ne _ _ s _ hj, respond_answered _ _ _ _ rfl⟩

/-- Settles O29: under the invariant, a buffer that is not valid already is what RB.DESTROY leaves. -/
theorem rbDestroyEffect : Obligations.RbDestroyEffect := by
  intro i s h
  refine ⟨fun hm => ?_, fun hm => refused_of_eq (execRbDestroy_mode h (s.mode_ne_prepare hm))⟩
  refine ⟨_, execRbDestroy_ok h hm, respond_setRb_sameBut .., ?_⟩
  rw [respond_rbAt, State.setRb_rbAt_self]
  refine ⟨rfl, rfl, rfl, rfl, fun j hj => respond_setRb_rbAt_ne _ _ s _ hj, fun hinv hv => ?_,
    respond_answered _ _ _ _ rfl⟩
  rw [respond_rb, ← hinv.2.1 hv, State.setRb_rbAt_rb]

/-- Settles O30. -/
theorem rbWriteEffect : Obligations.RbWriteEffect := by
  intro i v s h hs
  refine ⟨fun hv => ?_, fun hv => refused_of_eq (execRbWrite_nobuf h hv v)⟩
  refine ⟨_, execRbWrite_ok h (hs.rb _) hv v, respond_setRb_sameBut .., ?_,
    fun j hj => respond_setRb_rbAt_ne _ _ s _ hj, respond_answered _ _ _ _ rfl⟩
  rw [respond_rbAt, State.setRb_rbAt_self]
  exact RbInst.wroteTo (hs.rb _) hv v

/-- A delay counts modulo the capacity (R140), because the capacity divides the number of words. -/
theorem RbInst.sampleAt_mod {b : RbInst} (h : b.Inv P) (hv : b.valid = true) (d : Word) :
    b.sampleAt d = b.sampleAt (BitVec.ofNat 32 (d.toNat % b.capacity.toNat)) := by
  have hdvd := h.capacity_dvd hv
  have hle := Nat.mod_le d.toNat b.capacity.toNat
  have hlt := d.isLt
  have hsplit := Nat.mod_add_div d.toNat b.capacity.toNat
  unfold RbInst.sampleAt
  rw [BitVec.toNat_ofNat, Nat.mod_eq_of_lt (a := d.toNat % b.capacity.toNat) (by omega),
    Nat.mod_mod_of_dvd _ hdvd, Nat.mod_mod_of_dvd _ hdvd,
    show b.writeIndex.toNat + (2 ^ 32 - d.toNat % b.capacity.toNat) =
      b.writeIndex.toNat + (2 ^ 32 - d.toNat) + b.capacity.toNat * (d.toNat / b.capacity.toNat) by
        omega,
    Nat.add_mul_mod_self_left]

/-- Settles O31. -/
theorem rbReadiEffect : Obligations.RbReadiEffect := by
  intro i d s h hs
  refine ⟨fun hv => ?_, fun hv => refused_of_eq (execRbReadi_nobuf h hv d)⟩
  refine ⟨_, execRbReadi_ok h (hs.rb _) hv d, by constructor <;> simp,
    State.flagIf_status_raised .., ?_, RbInst.sampleAt_mod (hs.rb _) hv d⟩
  rw [← RbInst.delayed_eq (hs.rb _) hv]
  exact respond_answered _ _ _ _ rfl

end Machine
end Sys2Proof
end

section
/-! PROOFS. What an integer read returns in terms of the history of writes (40_ring_buffer.md R137). A
buffer that took the writes `vs` holds the value written `e` writes ago in the slot `e` below its
index; each write moves every value one slot further back. -/

namespace Sys2Proof
namespace Machine

/-! ## The values by age -/

/-- The value written `e` writes ago, or the zero-fill. -/
def valueAged (vs : List F32) (e : Nat) : F32 :=
  if e ≤ vs.length then vs.getD (vs.length - e) fZero else fZero

/-- The age of what a read at delay `d` returns, between 1 and the capacity (R137). -/
def ageOf (c : Nat) (d : Word) : Nat := (((d.toNat : Int) - 1) % (c : Int) + 1).toNat

theorem historySample_eq (vs : List F32) (c : Nat) (d : Word) :
    historySample vs c d = valueAged vs (ageOf c d) := rfl

theorem valueAged_append_one (vs : List F32) (v : F32) : valueAged (vs ++ [v]) 1 = v := by
  simp [valueAged]

theorem valueAged_append_succ (vs : List F32) (v : F32) {e : Nat} (he : 1 ≤ e) :
    valueAged (vs ++ [v]) (e + 1) = valueAged vs e := by
  unfold valueAged
  rw [List.length_append, List.length_singleton, Nat.add_sub_add_right]
  by_cases hle : e ≤ vs.length
  · rw [if_pos (by omega), if_pos hle, List.getD_append _ _ _ _ (by omega)]
  · rw [if_neg (by omega), if_neg hle]

theorem ageOf_bounds {c : Nat} (hc : 0 < c) (d : Word) : 1 ≤ ageOf c d ∧ ageOf c d ≤ c := by
  have hlow := Int.emod_nonneg ((d.toNat : Int) - 1) (b := c) (by omega)
  have hup := Int.emod_lt_of_pos ((d.toNat : Int) - 1) (b := c) (by omega)
  unfold ageOf
  omega

/-- The slot a read at delay `d` takes, after `m` writes, lies the age of `d` below the index. -/
theorem slot_eq_of_age {c : Nat} (hc : 0 < c) (hdvd : c ∣ 2 ^ 32) (m : Nat) (d : Word) :
    (m % c + (2 ^ 32 - d.toNat)) % 2 ^ 32 % c = (m + (c - ageOf c d)) % c := by
  obtain ⟨hlow, hup⟩ := ageOf_bounds hc d
  obtain ⟨k, hk⟩ := hdvd
  have hd : d.toNat ≤ 2 ^ 32 := d.isLt.le
  have hm : (m : Int) = c * (m / c : Nat) + (m % c : Nat) := by
    exact_mod_cast (Nat.div_add_mod m c).symm
  have hage : (ageOf c d : Int) = d.toNat - c * (((d.toNat : Int) - 1) / c) := by
    have hnn := Int.emod_nonneg ((d.toNat : Int) - 1) (b := c) (by omega)
    have hdiv := Int.emod_add_mul_ediv ((d.toNat : Int) - 1) c
    unfold ageOf
    omega
  have hkz : ((2 ^ 32 : Nat) : Int) = c * k := by rw [hk]; push_cast; ring
  rw [Nat.mod_mod_of_dvd _ ⟨k, hk⟩]
  refine (Nat.modEq_iff_dvd.2 ⟨1 - k + (m / c : Nat) + ((d.toNat : Int) - 1) / c, ?_⟩ :
    _ ≡ _ [MOD c])
  rw [Nat.cast_add, Nat.cast_add, Nat.cast_sub hd, Nat.cast_sub hup]
  linear_combination hm - hage - hkz

/-! ## A buffer after its writes -/

/-- The buffer `b` of capacity `c` took the writes `vs`, the oldest first, since it was created. -/
structure Recorded (b : RbInst) (c : Nat) (vs : List F32) : Prop where
  inv      : b.Inv
  valid    : b.valid = true
  capacity : b.capacity.toNat = c
  index    : b.writeIndex.toNat = vs.length % c
  aged     : ∀ e, 1 ≤ e → e ≤ c →
    Memory.read b.storage ((vs.length + (c - e)) % c) = valueAged vs e

section
variable {b : RbInst} {c : Nat} {vs : List F32}

theorem Recorded.capacity_pos (h : Recorded b c vs) : 0 < c :=
  h.capacity ▸ h.inv.capacity_pos h.valid

theorem recorded_freshBuffer {n : Word} (h : n.toNat ≤ thisHardware.capMax) :
    Recorded (freshBuffer n) (npot n.toNat) [] where
  inv := freshBuffer_inv h
  valid := rfl
  capacity := freshBuffer_capacity h
  index := (Nat.zero_mod _).symm
  aged _ he _ := (if_neg (Nat.not_le.2 he)).symm

/-- A write ages every value by one: the slot it replaces held the value of age `c`. -/
theorem Recorded.written (h : Recorded b c vs) (v : F32) :
    Recorded (b.written v) c (vs ++ [v]) where
  inv := h.inv.written h.valid v
  valid := h.valid
  capacity := h.capacity
  index := by
    rw [(RbInst.wroteTo h.inv h.valid v).index, h.capacity, h.index, Nat.mod_add_mod,
      List.length_append, List.length_singleton]
  aged e he hle := by
    have hw := RbInst.wroteTo h.inv h.valid v
    obtain ⟨e, rfl⟩ : ∃ e', e = e' + 1 := ⟨e - 1, by omega⟩
    rw [List.length_append, List.length_singleton,
      show vs.length + 1 + (c - (e + 1)) = vs.length + (c - e) by omega]
    rcases Nat.eq_zero_or_pos e with rfl | hpos
    · rw [Nat.sub_zero, Nat.add_mod_right, ← h.index, hw.stored, valueAged_append_one]
    · have hother : (vs.length + (c - e)) % c ≠ b.writeIndex.toNat := by
        intro heq
        have hmod : vs.length + (c - e) ≡ vs.length + 0 [MOD c] := heq.trans h.index
        have hzero := Nat.eq_zero_of_dvd_of_lt
          ((Nat.modEq_zero_iff_dvd).1 (Nat.ModEq.add_left_cancel' _ hmod)) (by omega)
        omega
      rw [hw.others _ hother, h.aged e hpos (by omega), valueAged_append_succ vs v hpos]

theorem Recorded.writeAll {past : List F32} (h : Recorded b c past) :
    ∃ b', writeAll b vs = .ok b' ∧ Recorded b' c (past ++ vs) := by
  induction vs generalizing b past with
  | nil => exact ⟨b, rfl, by rwa [List.append_nil]⟩
  | cons v vs ih =>
    obtain ⟨b', hb', hrec⟩ := ih (h.written v)
    refine ⟨b', ?_, by simpa using hrec⟩
    rw [Machine.writeAll, ringWrite_ok h.inv h.valid v]
    exact hb'

theorem Recorded.ringReadInt (h : Recorded b c vs) (d : Word) :
    ringReadInt b d = .ok (historySample vs c d) := by
  obtain ⟨hlow, hup⟩ := ageOf_bounds h.capacity_pos d
  have hdvd : c ∣ 2 ^ 32 := h.capacity ▸ h.inv.capacity_dvd h.valid
  rw [ringReadInt_delayed h.inv h.valid, RbInst.delayed_eq h.inv h.valid, RbInst.sampleAt, h.index,
    h.capacity, slot_eq_of_age h.capacity_pos hdvd, h.aged _ hlow hup, historySample_eq]

end

/-- Settles O32. -/
theorem readReturnsHistory : Obligations.ReadReturnsHistory := by
  intro n vs d hn
  obtain ⟨b, hb, hrec⟩ := (recorded_freshBuffer hn).writeAll (vs := vs)
  exact ⟨b, hb, hrec.capacity, hrec.ringReadInt d⟩

end Machine
end Sys2Proof
end

section
/-! PROOFS. The split of a real delay (40_ring_buffer.md R143). Between 0 and 2^31 the integer part is a
binary32, and so is the remainder, because it keeps the last place of the delay; so both operations of
the rule are exact. -/

namespace Sys2Proof
namespace Machine

/-! ## Exact rounding -/

/-- An integral number of units that needs no bit below its significand rounds to itself. -/
theorem ulps_roundUnits_of_dvd {neg : Bool} {n : Nat} (hdvd : 2 ^ roundShift n 1 ∣ n)
    (hfin : isFinite (roundUnits neg n 1) = true) : ulps (roundUnits neg n 1) = n := by
  rw [ulps_roundUnits Nat.one_pos hfin, Nat.one_mul]
  generalize roundShift n 1 = k at hdvd
  obtain ⟨j, rfl⟩ := hdvd
  rw [Nat.mul_comm (2 ^ k) j, roundDiv_mul j (Nat.two_pow_pos k)]

/-- What is left of a value above a multiple of `2 ^ e` keeps the value's last place. -/
theorem two_pow_roundShift_dvd_mod (x : F32) (e : Nat) :
    2 ^ roundShift (ulps x % 2 ^ e) 1 ∣ ulps x % 2 ^ e := by
  by_cases hk : roundShift (ulps x % 2 ^ e) 1 = 0
  · rw [hk]
    exact one_dvd _
  · have hge := le_of_roundShift Nat.one_pos hk
    rw [Nat.one_mul] at hge
    have hmod := Nat.mod_lt (ulps x) (Nat.two_pow_pos e)
    have hle := Nat.mod_le (ulps x) (2 ^ e)
    generalize roundShift (ulps x % 2 ^ e) 1 = k at hge ⊢
    have hke : k ≤ e := by
      refine ((Nat.pow_lt_pow_iff_right (by decide : 1 < 2)).1 ?_).le
      omega
    rcases two_pow_dvd_ulps_or_lt x k with hdvd | hlt
    · exact (Nat.dvd_mod_iff (Nat.pow_dvd_pow 2 hke)).2 hdvd
    · rw [pow_add] at hlt
      omega

theorem units_of_signBit_false {x : F32} (h : signBit x = false) : units x = ulps x := by
  simp [units, h]

/-- The remainder of a positive value over its integer part, computed exactly. -/
theorem fsub_integer_part (q : Word) {x y : F32} (hx : isFinite x = true) (hs : signBit x = false)
    (hy : isFinite y = true) (hval : units y = (ulps x / 2 ^ 149 * 2 ^ 149 : Nat)) :
    isFinite (fsub q x y) = true ∧ signBit (fsub q x y) = false ∧
      ulps (fsub q x y) = ulps x % 2 ^ 149 := by
  have hux := units_of_signBit_false hs
  have hdiff : units x - units y = (ulps x % 2 ^ 149 : Nat) := by omega
  by_cases hzero : ulps x % 2 ^ 149 = 0
  · have heq : fsub q x y = fZero := by
      rw [fsub_exact_zero q hx hy (by omega), hs]
      rfl
    rw [heq, hzero]
    decide
  · have heq : fsub q x y = roundUnits false (ulps x % 2 ^ 149) 1 := by
      rw [fsub, fadd_of_isFinite q hx (by rwa [isFinite_fneg]), units_fneg, ← sub_eq_add_neg,
        hdiff, if_neg (by omega), Int.natAbs_natCast, decide_eq_false (by omega)]
    have hfin : isFinite (roundUnits false (ulps x % 2 ^ 149) 1) = true := by
      have hover := le_roundedBits_iff (n := ulps x % 2 ^ 149) Nat.one_pos
      rw [isFinite_roundUnits_iff]
      omega
    rw [heq]
    exact ⟨hfin, signBit_roundUnits .., ulps_roundUnits_of_dvd (two_pow_roundShift_dvd_mod x 149) hfin⟩

/-! ## The branches of the split -/

theorem flt_iff {x y : F32} :
    flt x y = true ↔ isNaN x = false ∧ isNaN y = false ∧ orderKey x < orderKey y := by
  simp [flt, and_assoc]

theorem orderKey_fZero : orderKey fZero = 0 := by decide
theorem orderKey_fTwo31 : orderKey fTwo31 = 0x4F000000 := by decide

theorem feq_fZero {x : F32} : feq x fZero = isZero x := by
  rw [Bool.eq_iff_iff, feq_iff, orderKey_fZero]
  simp only [isZero, isNaN, orderKey, decide_eq_true_eq, decide_eq_false_iff_not]
  have hz : magBits fZero = 0 := rfl
  split_ifs <;> omega

section
variable (q : Word) {d : F32}

theorem splitDelay_low (h : isNaN d = true ∨ flt d fZero = true) :
    splitDelay q d = { n := 0, f := fZero, bad := true } :=
  if_pos (by simpa using h)

theorem splitDelay_high (h : fge d fTwo31 = true) :
    splitDelay q d = { n := 0x7FFFFFFF, f := fZero, bad := true } := by
  obtain ⟨-, hn, hkey⟩ := fle_iff.1 h
  have hneg : flt d fZero = false := by
    rw [Bool.eq_false_iff, Ne, flt_iff, orderKey_fZero]
    rw [orderKey_fTwo31] at hkey
    omega
  rw [splitDelay, if_neg (by simp [hn, hneg]), if_pos h]

theorem splitDelay_middle (hn : isNaN d = false) (hlow : flt d fZero = false)
    (hhigh : fge d fTwo31 = false) :
    splitDelay q d =
      if isZero d then { n := 0, f := fZero, bad := false }
      else { n := BitVec.ofNat 32 (truncNat d), f := fsub q d (u2f (BitVec.ofNat 32 (truncNat d))),
             bad := false } := by
  rw [splitDelay, if_neg (by simp [hn, hlow]), if_neg (by simp [hhigh]), feq_fZero]

theorem splitDelay_zero (h : isZero d = true) :
    splitDelay q d = { n := 0, f := fZero, bad := false } := by
  have hnan := not_isNaN_of_isFinite (isFinite_of_isZero h)
  have hkey : orderKey d = 0 := by
    have hmag : magBits d = 0 := by simpa [isZero] using h
    simp [orderKey, hmag]
  have hlow : flt d fZero = false := by
    rw [Bool.eq_false_iff, Ne, flt_iff, orderKey_fZero, hkey]
    simp
  have hhigh : fge d fTwo31 = false := by
    rw [Bool.eq_false_iff, Ne, fge, fle_iff, orderKey_fTwo31, hkey]
    simp
  rw [splitDelay_middle q hnan hlow hhigh, if_pos h]

/-- The delays above 0 and below 2^31: positive finite words whose integer part is a `u32`. -/
theorem delay_between (h0 : fgt d fZero = true) (h1 : flt d fTwo31 = true) :
    isFinite d = true ∧ isZero d = false ∧ signBit d = false ∧ truncNat d < 2 ^ 31 := by
  obtain ⟨-, -, hpos⟩ := flt_iff.1 h0
  obtain ⟨-, -, hlt⟩ := flt_iff.1 h1
  rw [orderKey_fZero] at hpos
  rw [orderKey_fTwo31] at hlt
  have hsign : signBit d = false := by
    by_contra hs
    simp only [orderKey, if_pos (Bool.of_not_eq_false hs)] at hpos
    omega
  simp only [orderKey, hsign, Bool.false_eq_true, if_false] at hpos hlt
  have hulps : ulps d < ulps fTwo31 :=
    ulps_lt_iff.2 (show magBits d < 0x4F000000 by omega)
  have htop : ulps fTwo31 = 2 ^ 31 * 2 ^ 149 := by decide
  have hz : isZero d = false := by
    rw [isZero, decide_eq_false_iff_not]
    omega
  exact ⟨isFinite_iff.2 (by omega), hz, hsign, by unfold truncNat; omega⟩

theorem splitDelay_between (h0 : fgt d fZero = true) (h1 : flt d fTwo31 = true) :
    (splitDelay q d).bad = false ∧ (splitDelay q d).n.toNat = truncNat d ∧
      isFinite (splitDelay q d).f = true ∧ signBit (splitDelay q d).f = false ∧
      ulps (splitDelay q d).f = ulps d % 2 ^ 149 := by
  obtain ⟨hfin, hz, hsign, htrunc⟩ := delay_between h0 h1
  obtain ⟨-, -, hpos⟩ := flt_iff.1 h0
  obtain ⟨hnan, -, hlt⟩ := flt_iff.1 h1
  have hlow : flt d fZero = false := by
    rw [Bool.eq_false_iff, Ne, flt_iff]
    omega
  have hhigh : fge d fTwo31 = false := by
    rw [Bool.eq_false_iff, Ne, fge, fle_iff]
    omega
  have hn : (BitVec.ofNat 32 (truncNat d)).toNat = truncNat d := by
    rw [BitVec.toNat_ofNat]
    omega
  obtain ⟨hint, hval⟩ := roundUnits_integral false hfin (N := truncNat d)
    (by unfold truncNat; omega) (by unfold truncNat; omega)
  rw [splitDelay_middle q hnan hlow hhigh, hz]
  refine ⟨rfl, hn, fsub_integer_part q hfin hsign ?_ ?_⟩
  · rw [u2f, hn]
    exact hint
  · rw [u2f, hn, hval, if_neg Bool.false_ne_true, truncNat]
    push_cast
    rfl

end

/-- Settles O33. -/
theorem splitOfDelay : Obligations.SplitOfDelay := by
  intro q d
  refine ⟨splitDelay_low q, splitDelay_high q, splitDelay_zero q, fun h0 h1 => ?_⟩
  obtain ⟨hbad, hn, hfin, hsign, hulps⟩ := splitDelay_between q h0 h1
  rw [truncNat] at hn
  exact ⟨hbad, by omega, by omega, hfin, hsign, by omega⟩

end Machine
end Sys2Proof
end

section
/-! PROOFS. RB.READF (40_ring_buffer.md R144 to R147): its answer under each policy, the interpolators
operation by operation, and that policy NONE is RB.READI at the truncated delay. -/

namespace Sys2Proof
namespace Machine

/-! ## The interpolators -/

section
variable (q : Nat → Word) (xm1 x0 x1 x2 f : F32)

/-- R150: the clamp at a fraction of 1 and above. -/
theorem interpLinear_clamped {x0 x1 f : F32} (h : fge f fOne = true) : interpLinear q x0 x1 f = x1 :=
  if_pos h

theorem interpLinear_between {x0 x1 f : F32} (h : fge f fOne = false) :
    interpLinear q x0 x1 f =
      fadd (q 3) (fmul (q 1) x0 (fsub (q 0) fOne f)) (fmul (q 2) x1 f) := by
  rw [interpLinear, if_neg (by simp [h])]

/-- R151, with every intermediate value named. -/
theorem interpHermite_steps {c v w a bn : F32} (hc : c = fmul (q 1) (fsub (q 0) x1 xm1) fHalf)
    (hv : v = fsub (q 2) x0 x1) (hw : w = fadd (q 3) c v)
    (ha : a = fadd (q 7) (fadd (q 4) w v) (fmul (q 6) (fsub (q 5) x2 x0) fHalf))
    (hbn : bn = fadd (q 8) w a) :
    interpHermite q xm1 x0 x1 x2 f =
      fadd (q 14)
        (fmul (q 13) (fadd (q 12) (fmul (q 11) (fsub (q 10) (fmul (q 9) a f) bn) f) c) f) x0 := by
  subst hbn ha hw hv hc
  rfl

/-- R152, with every intermediate value named. -/
theorem interpLagrange_steps {fm1 fm2 fp1 lm1 l0 l1 l2 : F32} (hfm1 : fm1 = fsub (q 0) f fOne)
    (hfm2 : fm2 = fsub (q 1) f fTwo) (hfp1 : fp1 = fadd (q 2) f fOne)
    (hlm1 : lm1 = fdiv (q 5) (fneg (fmul (q 4) (fmul (q 3) f fm1) fm2)) fSix)
    (hl0 : l0 = fmul (q 8) (fmul (q 7) (fmul (q 6) fp1 fm1) fm2) fHalf)
    (hl1 : l1 = fmul (q 11) (fneg (fmul (q 10) (fmul (q 9) fp1 f) fm2)) fHalf)
    (hl2 : l2 = fdiv (q 14) (fmul (q 13) (fmul (q 12) fp1 f) fm1) fSix) :
    interpLagrange q xm1 x0 x1 x2 f =
      fadd (q 21) (fadd (q 19) (fadd (q 17) (fmul (q 15) xm1 lm1) (fmul (q 16) x0 l0))
        (fmul (q 18) x1 l1)) (fmul (q 20) x2 l2) := by
  subst hl2 hl1 hl0 hlm1 hfp1 hfm2 hfm1
  rfl

end

/-! ## The command -/

theorem RbInst.fractional_eq {P : Params} {b : RbInst} (h : b.Inv P) (hv : b.valid = true)
    (q : Nat → Word) (d : F32) (p : Policy) :
    b.fractional q d p = b.readAt q (splitDelay (q 31) d).n (splitDelay (q 31) d).f p :=
  RbInst.interpolated_eq h hv q _ _ p

/-- Settles O34: the free words of the command are those of the state's draw. -/
theorem rbReadfEffect : Obligations.RbReadfEffect := by
  refine ⟨fun i p d s h hs => ⟨fun hv => ?_, fun hv => refused_of_eq (execRbReadf_nobuf h hv p d)⟩,
    fun q xm1 x0 x1 x2 f => ⟨interpLinear_clamped q, interpLinear_between q, ?_, ?_⟩⟩
  · refine ⟨s.draws, _, execRbReadf_ok h (hs.rb _) hv p d, by constructor <;> simp,
      State.flagIf_status_raised .., ?_⟩
    rw [← RbInst.fractional_eq (hs.rb _) hv]
    exact respond_answered _ _ _ _ rfl
  · intro c v w a bn
    exact interpHermite_steps q xm1 x0 x1 x2 f
  · intro fm1 fm2 fp1 lm1 l0 l1 l2
    exact interpLagrange_steps q xm1 x0 x1 x2 f

/-! ## Policy NONE -/

/-- A delay from 0 up to 2^31 is truncated and not marked (R143). -/
theorem splitDelay_truncates (q : Word) {d : F32} (h0 : fge d fZero = true)
    (h1 : flt d fTwo31 = true) :
    (splitDelay q d).bad = false ∧ (splitDelay q d).n.toNat = truncNat d := by
  by_cases hz : isZero d = true
  · rw [splitDelay_zero q hz, truncNat, ulps_eq_zero.2 hz]
    decide
  · obtain ⟨-, hnan, hnonneg⟩ := fle_iff.1 h0
    have hne : orderKey fZero ≠ orderKey d := fun heq =>
      hz (feq_fZero (x := d) ▸ feq_iff.2 ⟨hnan, rfl, heq.symm⟩)
    have hpos : fgt d fZero = true := flt_iff.2 ⟨rfl, hnan, by omega⟩
    obtain ⟨hbad, hn, -⟩ := splitDelay_between q hpos h1
    exact ⟨hbad, hn⟩

/-- Settles O35: both commands read the slot at the truncated delay, and a delay in range is marked by
its integer part alone. -/
theorem truncatedReadIsIntegerRead : Obligations.TruncatedReadIsIntegerRead := by
  intro i d n s h hs hv h0 h1 hlow hup
  obtain ⟨hbad, hsplit⟩ := splitDelay_truncates (s.draws 31) h0 h1
  have hn : (splitDelay (s.draws 31) d).n = n := by
    refine BitVec.eq_of_toNat_eq ?_
    rw [hsplit, truncNat]
    omega
  have hread : (s.rbAt ⟨i.toNat, h⟩).fractional s.draws d .none =
      (s.rbAt ⟨i.toNat, h⟩).delayed n := congrArg (s.rbAt ⟨i.toNat, h⟩).delayed hn
  have hlate : realDelayBeyond (s.rbAt ⟨i.toNat, h⟩) (splitDelay (s.draws 31) d) =
      delayBeyond (s.rbAt ⟨i.toNat, h⟩) n := by
    rw [realDelayBeyond, hbad, hn, Bool.false_or]
  refine ⟨(s.rbAt ⟨i.toNat, h⟩).delayed n, _, _, execRbReadf_ok h (hs.rb _) hv .none d,
    execRbReadi_ok h (hs.rb _) hv n, ?_, respond_answered _ _ _ _ rfl, ?_⟩
  · rw [hread]
    exact respond_answered _ _ _ _ rfl
  · rw [respond_status, State.nextDraw_status, respond_status, hlate]

end Machine
end Sys2Proof
end

section
/-! PROOFS. The interpolators at a fraction of `+0` (40_ring_buffer.md R150 to R153): every product by
the fraction is a zero while the other factor is finite, and adding a zero is exact. For the Hermite
interpolator the factors are the slope and curvature terms, finite for taps below 2^120. -/

namespace Sys2Proof
namespace Machine

/-! ## Exact results -/

/-- `r` is finite and has the value of `x`; only the sign of a zero may differ. -/
structure Exactly (r x : F32) : Prop where
  finite : isFinite r = true
  value  : units r = units x

theorem Exactly.feq {r x : F32} (h : Exactly r x) (hx : isFinite x = true) : feq r x = true := by
  rw [feq_of_isFinite h.finite hx, h.value, decide_eq_true rfl]

theorem Exactly.trans {r x y : F32} (h : Exactly r x) (h' : Exactly x y) : Exactly r y :=
  ⟨h.finite, h.value.trans h'.value⟩

theorem units_of_isZero {z : F32} (h : isZero z = true) : units z = 0 := by
  simp [units, ulps_eq_zero.2 h]

theorem roundUnits_units {z : F32} (hz : isFinite z = true) (h : units z ≠ 0) :
    roundUnits (decide (units z < 0)) (units z).natAbs 1 = z := by
  have hsign : decide (units z < 0) = signBit z := by
    unfold units at h ⊢
    cases signBit z <;> simp at h ⊢
    omega
  have hulps : (units z).natAbs = ulps z * 1 := by
    unfold units
    split_ifs <;> omega
  rw [hsign, hulps, roundUnits_ulps hz Nat.one_pos]

section
variable (q : Word) {x y z : F32}

/-- A sum that is a binary32 is exact. -/
theorem fadd_exactly (hx : isFinite x = true) (hy : isFinite y = true) (hz : isFinite z = true)
    (h : units x + units y = units z) : Exactly (fadd q x y) z := by
  rw [fadd_of_isFinite q hx hy, h]
  split_ifs with h0
  · exact ⟨by decide, by rw [h0]; decide⟩
  · exact ⟨by decide, by rw [h0]; decide⟩
  · rw [roundUnits_units hz h0]
    exact ⟨hz, rfl⟩

theorem fadd_zero_exactly (hx : isFinite x = true) (hz : isZero z = true) :
    Exactly (fadd q x z) x :=
  fadd_exactly q hx (isFinite_of_isZero hz) hx (by rw [units_of_isZero hz, add_zero])

theorem zero_fadd_exactly (hz : isZero z = true) (hx : isFinite x = true) :
    Exactly (fadd q z x) x :=
  fadd_exactly q (isFinite_of_isZero hz) hx hx (by rw [units_of_isZero hz, zero_add])

theorem fmul_of_isFinite (hx : isFinite x = true) (hy : isFinite y = true) :
    fmul q x y = roundUnits (signBit x != signBit y) (ulps x * ulps y) (2 ^ 149) := by
  simp [fmul, not_isNaN_of_isFinite hx, not_isNaN_of_isFinite hy, not_isInf_of_isFinite hx,
    not_isInf_of_isFinite hy]

theorem isZero_fmul (hx : isFinite x = true) (hz : isZero z = true) : isZero (fmul q x z) = true := by
  rw [fmul_of_isFinite q hx (isFinite_of_isZero hz), ulps_eq_zero.2 hz, Nat.mul_zero,
    roundUnits_zero _ (Nat.two_pow_pos 149), isZero_withSign]

theorem isZero_fmul_left (hz : isZero z = true) (hx : isFinite x = true) :
    isZero (fmul q z x) = true := by
  rw [fmul_of_isFinite q (isFinite_of_isZero hz) hx, ulps_eq_zero.2 hz, Nat.zero_mul,
    roundUnits_zero _ (Nat.two_pow_pos 149), isZero_withSign]

theorem isZero_fdiv (hz : isZero z = true) (hx : isFinite x = true) (hnz : isZero x = false) :
    isZero (fdiv q z x) = true := by
  have hfin := isFinite_of_isZero hz
  have heq : fdiv q z x = roundUnits (signBit z != signBit x) (ulps z * 2 ^ 149) (ulps x) := by
    simp [fdiv, not_isNaN_of_isFinite hx, not_isNaN_of_isFinite hfin, not_isInf_of_isFinite hx,
      not_isInf_of_isFinite hfin, hnz]
  have hpos : 0 < ulps x := Nat.pos_of_ne_zero fun h0 => by simp [ulps_eq_zero.1 h0] at hnz
  rw [heq, ulps_eq_zero.2 hz, Nat.zero_mul, roundUnits_zero _ hpos, isZero_withSign]

theorem isZero_fneg : isZero (fneg z) = isZero z := by
  rw [isZero, isZero, magBits_fneg]

theorem fmul_fOne (hx : isFinite x = true) : fmul q x fOne = x := by
  have hsign : (signBit x != signBit fOne) = signBit x := Bool.xor_false _
  rw [fmul_of_isFinite q hx rfl, hsign, show ulps fOne = 2 ^ 149 by decide,
    roundUnits_ulps hx (Nat.two_pow_pos 149)]

end

/-! ## The linear and the Lagrange interpolator -/

theorem fOne_sub_fZero (q : Word) : fsub q fOne fZero = fOne := by
  rw [fsub, fadd_of_isFinite q rfl rfl]
  decide

theorem fZero_sub_fOne (q : Word) : fsub q fZero fOne = fneg fOne := by
  rw [fsub, fadd_of_isFinite q rfl rfl]
  decide

theorem fZero_sub_fTwo (q : Word) : fsub q fZero fTwo = fneg fTwo := by
  rw [fsub, fadd_of_isFinite q rfl rfl]
  decide

theorem fZero_add_fOne (q : Word) : fadd q fZero fOne = fOne := by
  rw [fadd_of_isFinite q rfl rfl]
  decide

theorem interpLinear_zero (q : Nat → Word) {x0 x1 : F32} (h0 : isFinite x0 = true)
    (h1 : isFinite x1 = true) : Exactly (interpLinear q x0 x1 fZero) x0 := by
  rw [interpLinear_between q (by decide), fOne_sub_fZero, fmul_fOne _ h0]
  exact fadd_zero_exactly _ h0 (isZero_fmul _ h1 rfl)

/-- The Lagrange weight of the sample itself at `+0` (R152). -/
theorem lagrange_own_weight (q : Nat → Word) :
    fmul (q 8) (fmul (q 7) (fmul (q 6) fOne (fneg fOne)) (fneg fTwo)) fHalf = fOne := by
  have hneg : fmul (q 6) fOne (fneg fOne) = fneg fOne := by
    rw [fmul_of_isFinite _ rfl rfl]
    decide
  have htwo : fmul (q 7) (fneg fOne) (fneg fTwo) = fTwo := by
    rw [fmul_of_isFinite _ rfl rfl]
    decide
  rw [hneg, htwo, fmul_of_isFinite _ rfl rfl]
  decide

/-- At `+0` each of the other three weights has the fraction as a factor. -/
theorem interpLagrange_zero (q : Nat → Word) {xm1 x0 x1 x2 : F32} (hm1 : isFinite xm1 = true)
    (h0 : isFinite x0 = true) (h1 : isFinite x1 = true) (h2 : isFinite x2 = true) :
    Exactly (interpLagrange q xm1 x0 x1 x2 fZero) x0 := by
  have hz : isZero fZero = true := rfl
  have hsteps := interpLagrange_steps q xm1 x0 x1 x2 fZero (fZero_sub_fOne _).symm
    (fZero_sub_fTwo _).symm (fZero_add_fOne _).symm rfl rfl rfl rfl
  have zm1 := isZero_fdiv (q 5) (isZero_fneg.trans (isZero_fmul_left (q 4)
    (isZero_fmul_left (q 3) hz (x := fneg fOne) rfl) (x := fneg fTwo) rfl)) (x := fSix) rfl rfl
  have z1 := isZero_fmul_left (q 11) (isZero_fneg.trans (isZero_fmul_left (q 10)
    (isZero_fmul (q 9) (x := fOne) rfl hz) (x := fneg fTwo) rfl)) (x := fHalf) rfl
  have z2 := isZero_fdiv (q 14) (isZero_fmul_left (q 13)
    (isZero_fmul (q 12) (x := fOne) rfl hz) (x := fneg fOne) rfl) (x := fSix) rfl rfl
  rw [hsteps, lagrange_own_weight, fmul_fOne _ h0]
  have e0 := zero_fadd_exactly (q 17) (isZero_fmul (q 15) hm1 zm1) h0
  have e1 := fadd_zero_exactly (q 19) e0.finite (isZero_fmul (q 18) h1 z1)
  have e2 := fadd_zero_exactly (q 21) e1.finite (isZero_fmul (q 20) h2 z2)
  exact e2.trans (e1.trans e0)

/-- Settles O36. -/
theorem integralDelayIsExact : Obligations.IntegralDelayIsExact := by
  intro q xm1 x0 x1 x2 h0 h1
  exact ⟨(interpLinear_zero q h0 h1).feq h0,
    fun hm1 h2 => (interpLagrange_zero q hm1 h0 h1 h2).feq h0⟩

/-! ## Magnitudes bounded by a power of two -/

/-- `x` is at most `2 ^ j` units in magnitude, and finite. -/
structure AtMost (j : Nat) (x : F32) : Prop where
  finite : isFinite x = true
  bound  : ulps x ≤ 2 ^ j

theorem two_pow_le_mul {j k e : Nat} (h : j ≤ k + e) : 2 ^ j ≤ 2 ^ k * 2 ^ e :=
  (Nat.pow_le_pow_right Nat.two_pos h).trans_eq (pow_add 2 k e)

/-- Rounding does not pass a power of two that is a binary32. -/
theorem atMost_roundUnits {n d j : Nat} (neg : Bool) (hd : 0 < d) (hj : j ≤ 276)
    (h : n ≤ 2 ^ j * d) : AtMost j (roundUnits neg n d) := by
  have hfin : isFinite (roundUnits neg n d) = true := by
    have hmul := Nat.mul_le_mul_right d (two_pow_le_mul (k := 24) (e := 252) hj)
    have hover := le_roundedBits_iff (n := n) hd
    rw [isFinite_roundUnits_iff]
    omega
  refine ⟨hfin, ?_⟩
  have hplace := le_of_roundShift (n := n) hd
  rw [ulps_roundUnits hd hfin]
  generalize roundShift n d = k at hplace ⊢
  by_cases hk : k ≤ j
  · have hsplit : 2 ^ (j - k) * 2 ^ k = 2 ^ j := by rw [← pow_add, Nat.sub_add_cancel hk]
    have hle : roundDiv n (d * 2 ^ k) ≤ 2 ^ (j - k) := by
      refine roundDiv_le (Nat.mul_pos hd (Nat.two_pow_pos k)) (h.trans_eq ?_)
      rw [← hsplit]
      ring
    exact (Nat.mul_le_mul_right _ hle).trans_eq hsplit
  · have hpow : 2 ^ j * d < 2 ^ k * d :=
      Nat.mul_lt_mul_of_pos_right (Nat.pow_lt_pow_right (by decide) (by omega)) hd
    have := hplace (by omega)
    rw [Nat.mul_comm d] at this
    omega

section
variable {j : Nat} {x y : F32}

theorem AtMost.mono {k : Nat} (h : AtMost j x) (hjk : j ≤ k) : AtMost k x :=
  ⟨h.finite, h.bound.trans (Nat.pow_le_pow_right Nat.two_pos hjk)⟩

theorem AtMost.neg (h : AtMost j x) : AtMost j (fneg x) := by
  refine ⟨by rw [isFinite_fneg]; exact h.finite, ?_⟩
  rw [ulps_eq_magUlps, magBits_fneg, ← ulps_eq_magUlps]
  exact h.bound

theorem natAbs_units (x : F32) : (units x).natAbs = ulps x := by
  unfold units
  split_ifs <;> omega

theorem AtMost.add (q : Word) (hx : AtMost j x) (hy : AtMost j y) (hj : j < 276) :
    AtMost (j + 1) (fadd q x y) := by
  have hbound : (units x + units y).natAbs ≤ 2 ^ (j + 1) * 1 := by
    have hsum := Int.natAbs_add_le (units x) (units y)
    have := hx.bound
    have := hy.bound
    rw [natAbs_units, natAbs_units] at hsum
    omega
  rw [fadd_of_isFinite q hx.finite hy.finite]
  split_ifs with h0
  · exact ⟨by decide, Nat.zero_le _⟩
  · exact ⟨by decide, Nat.zero_le _⟩
  · exact atMost_roundUnits _ Nat.one_pos hj hbound

theorem AtMost.sub (q : Word) (hx : AtMost j x) (hy : AtMost j y) (hj : j < 276) :
    AtMost (j + 1) (fsub q x y) :=
  hx.add q hy.neg hj

theorem AtMost.half (q : Word) (hx : AtMost j x) (hj : j ≤ 276) : AtMost j (fmul q x fHalf) := by
  have hhalf : ulps fHalf ≤ 2 ^ 149 := by decide
  rw [fmul_of_isFinite q hx.finite rfl]
  exact atMost_roundUnits _ (Nat.two_pow_pos 149) hj (Nat.mul_le_mul hx.bound hhalf)

/-- A word below 2^120. -/
theorem atMost_of_magBits_lt (h : magBits x < 0x7B800000) : AtMost 269 x := by
  have htop : magUlps (246 * 2 ^ 23 + 2 ^ 23) = 2 ^ 23 * 2 ^ 246 :=
    magUlps_scaled (by decide) (.inr (by decide))
  refine ⟨isFinite_iff.2 (by omega), ?_⟩
  rw [ulps_eq_magUlps, show 2 ^ 269 = 2 ^ 23 * 2 ^ 246 by rw [← pow_add], ← htop]
  exact magUlps_strictMono.monotone (by omega)

end

/-! ## The Hermite interpolator -/

/-- The last line of R151 at a fraction of `+0`, for finite coefficients. -/
theorem hermite_polynomial_zero (q : Nat → Word) {a bn c x0 : F32} (ha : isFinite a = true)
    (hb : isFinite bn = true) (hc : isFinite c = true) (h0 : isFinite x0 = true) :
    Exactly (fadd (q 14) (fmul (q 13)
      (fadd (q 12) (fmul (q 11) (fsub (q 10) (fmul (q 9) a fZero) bn) fZero) c) fZero) x0) x0 := by
  have hz : isZero fZero = true := rfl
  have hcube := isZero_fmul (q 9) ha hz
  have hdiff := zero_fadd_exactly (q 10) hcube (by rwa [isFinite_fneg] : isFinite (fneg bn) = true)
  have hslope := zero_fadd_exactly (q 12) (isZero_fmul (q 11) hdiff.finite hz) hc
  exact zero_fadd_exactly (q 14) (isZero_fmul (q 13) hslope.finite hz) h0

/-- For taps below 2^120 no coefficient of R151 passes 2^125. -/
theorem interpHermite_zero (q : Nat → Word) {xm1 x0 x1 x2 : F32} (hm1 : AtMost 269 xm1)
    (h0 : AtMost 269 x0) (h1 : AtMost 269 x1) (h2 : AtMost 269 x2) :
    Exactly (interpHermite q xm1 x0 x1 x2 fZero) x0 := by
  have hc := (h1.sub (q 0) hm1 (by decide)).half (q 1) (by decide)
  have hv := h0.sub (q 2) h1 (by decide)
  have hw := hc.add (q 3) hv (by decide)
  have hwv := hw.add (q 4) (hv.mono (Nat.le_succ _)) (by decide)
  have hh := (h2.sub (q 5) h0 (by decide)).half (q 6) (by decide)
  have ha := hwv.add (q 7) (hh.mono (by decide)) (by decide)
  have hb := (hw.mono (by decide)).add (q 8) ha (by decide)
  exact hermite_polynomial_zero q ha.finite hb.finite hc.finite h0.finite

/-- The largest finite value. -/
def fMax : F32 := 0x7F7FFFFF

theorem fMax_sub_neg (q : Word) : fsub q fMax (fneg fMax) = fInf false := by
  rw [fsub, fadd_of_isFinite q rfl rfl]
  decide

theorem fZero_sub_fMax (q : Word) : fsub q fZero fMax = fneg fMax := by
  rw [fsub, fadd_of_isFinite q rfl rfl]
  decide

/-- The overflow of log 15: the slope of two taps at the ends of the finite range is an infinity, and so
are `w`, `a` and `bn`, whose product by the fraction is a NaN. -/
theorem interpHermite_overflow (q : Nat → Word) :
    isNaN (interpHermite q (fneg fMax) fZero fMax fZero fZero) = true := by
  have hc : fInf false = fmul (q 1) (fsub (q 0) fMax (fneg fMax)) fHalf := by
    rw [fMax_sub_neg]
    rfl
  have hhalf : isFinite (fmul (q 6) (fsub (q 5) fZero fZero) fHalf) = true :=
    isFinite_of_isZero (isZero_fmul_left (q 6) (z := fsub (q 5) fZero fZero) rfl rfl)
  have ha : fInf false = fadd (q 7) (fadd (q 4) (fInf false) (fneg fMax))
      (fmul (q 6) (fsub (q 5) fZero fZero) fHalf) := (fadd_inf_finite (q 7) rfl hhalf).symm
  have hsteps := interpHermite_steps q (fneg fMax) fZero fMax fZero fZero (w := fInf false)
    (bn := fInf false) hc (fZero_sub_fMax _).symm rfl ha rfl
  have hcube : fmul (q 9) (fInf false) fZero = nanOf (q 9) := rfl
  rw [hsteps, hcube, fsub, fadd_nan_left _ _ (isNaN_nanOf _), fmul_nan_left _ _ (isNaN_nanOf _),
    fadd_nan_left _ _ (isNaN_nanOf _), fmul_nan_left _ _ (isNaN_nanOf _),
    fadd_nan_left _ _ (isNaN_nanOf _), isNaN_nanOf]

/-- Settles O37. -/
theorem integralDelayHermite : Obligations.IntegralDelayHermite := by
  refine ⟨fun q xm1 x0 x1 x2 hm1 h0 h1 h2 => ?_,
    fneg fMax, fZero, fMax, fZero, rfl, rfl, rfl, rfl, interpHermite_overflow⟩
  have hb0 := atMost_of_magBits_lt h0
  exact (interpHermite_zero q (atMost_of_magBits_lt hm1) hb0 (atMost_of_magBits_lt h1)
    (atMost_of_magBits_lt h2)).feq hb0.finite

end Machine
end Sys2Proof
end

section
/-! PROOFS. What FD.COMPUTE does to the registers under any `FD_DESIGN` (41_filter_designer.md R176,
R177, R185 to R187): one of three answers by shape, and coefficients in which the free words decide at
most which NaN a NaN is. -/

namespace Sys2Proof
namespace Machine

variable {D : FdDesign} {sh : Shape} {raw : RawFormula}

/-! ## The three answers -/

/-- The coefficients of a normalised sextuple, in the order of R188 (R186). -/
def normalizedCoefs (q : Nat → Word) (c : RawCoef) : List F32 :=
  [fdiv (q 16) c.n0 c.d0, fdiv (q 17) c.n1 c.d0, fdiv (q 18) c.n2 c.d0, fOne,
    fdiv (q 19) c.d1 c.d0, fdiv (q 20) c.d2 c.d0]

theorem normalizeCoefs_coefs (q : Nat → Word) (c : RawCoef) (f : FdInst) :
    (normalizeCoefs q c f).coefs = normalizedCoefs q c := rfl

theorem normalizeCoefs_b0 (q : Nat → Word) (c : RawCoef) (f : FdInst) :
    (normalizeCoefs q c f).b0 = fOne := rfl

theorem fdComputeShape_flat (D : FdDesign) (q : Nat → Word) (f : FdInst) :
    fdComputeShape D q .flat f = flatCoefs f := if_pos rfl

theorem flatCoefs_coefs (f : FdInst) :
    (flatCoefs f).coefs = [fOne, fZero, fZero, fOne, fZero, fZero] := rfl

/-- A design has a formula for a shape exactly when the shape is one of the seven. -/
theorem formulaOf?_cases (D : FdDesign) (sh : Shape) :
    (∃ raw, formulaOf? D sh = some raw ∧ shapeWithoutFormula sh = false) ∨
      (sh = .flat ∧ shapeWithoutFormula sh = false) ∨
      (sh ≠ .flat ∧ formulaOf? D sh = none ∧ shapeWithoutFormula sh = true) := by
  cases sh
  case flat => exact .inr (.inl ⟨rfl, rfl⟩)
  case lpf1 | hpf1 | lpf2 | hpf2 | apf1 | apf2 | bpf => exact .inl ⟨_, rfl, rfl⟩
  all_goals exact .inr (.inr ⟨nofun, rfl, rfl⟩)

theorem fdComputeShape_coefs (h : formulaOf? D sh = some raw) (q : Nat → Word) (f : FdInst) :
    (fdComputeShape D q sh f).coefs = normalizedCoefs q (raw f.sn f.cs f.q) := by
  rw [fdComputeShape_formula h, normalizeCoefs_coefs]

/-- R185: a shape without a formula writes nothing. -/
theorem fdComputeShape_unwritten (h : shapeWithoutFormula sh = true) (D : FdDesign)
    (q : Nat → Word) (f : FdInst) : fdComputeShape D q sh f = f := by
  obtain ⟨_, -, hw⟩ | ⟨-, hw⟩ | ⟨hs, hn, -⟩ := formulaOf?_cases D sh
  · exact absurd h (by simp [hw])
  · exact absurd h (by simp [hw])
  · rw [fdComputeShape, if_neg hs, hn]

/-- R176: whatever the shape, FD.COMPUTE writes at most the six coefficients. -/
theorem fdComputeShape_eq_withCoefs (D : FdDesign) (q : Nat → Word) (sh : Shape) (f : FdInst) :
    ∃ a0 a1 a2 b0 b1 b2, fdComputeShape D q sh f = f.withCoefs a0 a1 a2 b0 b1 b2 := by
  obtain ⟨raw, hf, -⟩ | ⟨rfl, -⟩ | ⟨-, -, hw⟩ := formulaOf?_cases D sh
  · exact ⟨_, _, _, _, _, _, fdComputeShape_formula hf q f⟩
  · exact ⟨_, _, _, _, _, _, fdComputeShape_flat D q f⟩
  · exact ⟨_, _, _, _, _, _, fdComputeShape_unwritten hw D q f⟩

/-! ## The coefficients -/

theorem fdComputeShape_b0 (h : shapeWithoutFormula sh = false) (D : FdDesign) (q : Nat → Word)
    (f : FdInst) : (fdComputeShape D q sh f).b0 = fOne := by
  obtain ⟨raw, hf, -⟩ | ⟨rfl, -⟩ | ⟨-, -, hw⟩ := formulaOf?_cases D sh
  · rw [fdComputeShape_formula hf, normalizeCoefs_b0]
  · rw [fdComputeShape_flat]; rfl
  · exact absurd h (by simp [hw])

/-- R187: the coefficients are read off `sn`, `cs` and `Q`. -/
theorem fdComputeShape_coefs_congr {f g : FdInst} (h : shapeWithoutFormula sh = false)
    (hsn : f.sn = g.sn) (hcs : f.cs = g.cs) (hq : f.q = g.q) (D : FdDesign) (q : Nat → Word) :
    (fdComputeShape D q sh f).coefs = (fdComputeShape D q sh g).coefs := by
  obtain ⟨raw, hf, -⟩ | ⟨rfl, -⟩ | ⟨-, -, hw⟩ := formulaOf?_cases D sh
  · rw [fdComputeShape_coefs hf, fdComputeShape_coefs hf, hsn, hcs, hq]
  · rw [fdComputeShape_flat, fdComputeShape_flat, flatCoefs_coefs, flatCoefs_coefs]
  · exact absurd h (by simp [hw])

/-- U1: five quotients of the same operands, and a constant. -/
theorem normalizedCoefs_draw (q r : Nat → Word) (c : RawCoef) :
    List.Forall₂ SameNumber (normalizedCoefs q c) (normalizedCoefs r c) :=
  .cons (fdiv_draw ..) <| .cons (fdiv_draw ..) <| .cons (fdiv_draw ..) <| .cons (.refl _) <|
    .cons (fdiv_draw ..) <| .cons (fdiv_draw ..) .nil

theorem fdComputeShape_coefs_draw (h : shapeWithoutFormula sh = false) (D : FdDesign)
    (q r : Nat → Word) (f : FdInst) :
    List.Forall₂ SameNumber (fdComputeShape D q sh f).coefs (fdComputeShape D r sh f).coefs := by
  obtain ⟨raw, hf, -⟩ | ⟨rfl, -⟩ | ⟨-, -, hw⟩ := formulaOf?_cases D sh
  · rw [fdComputeShape_coefs hf, fdComputeShape_coefs hf]
    exact normalizedCoefs_draw q r _
  · rw [fdComputeShape_flat, fdComputeShape_flat]
    exact List.forall₂_same.2 fun x _ => .refl x
  · exact absurd h (by simp [hw])

/-- Settles O40. -/
theorem fdDesignContract : Obligations.FdDesignContract := by
  intro D q sh f g
  refine ⟨by rw [fdComputeShape_flat]; rfl, fun h => fdComputeShape_b0 h D q f,
    fun h => fdComputeShape_unwritten h D q f, fun h hsn hcs hq => ?_⟩
  have hfg := fdComputeShape_coefs_congr h hsn hcs hq D q
  refine ⟨hfg, fun r => ?_⟩
  rw [hfg]
  exact fdComputeShape_coefs_draw h D q r g

end Machine
end Sys2Proof
end

section
/-! PROOFS. FD.SETPARAM, FD.COMPUTE and FD.GETCOEF (41_filter_designer.md R173 to R188), each from the
equation of its answer; the default formulas are read off one table. -/

namespace Sys2Proof
namespace Machine

variable {P : Params}

/-! ## A command that rewrites one filter designer -/

/-- The state after FD.SETPARAM or FD.COMPUTE: the registers of designer `r` are `x`, and `f` is
raised if `c`. -/
def State.designed (s : State P) (i : Instr) (r : Fin P.nFD) (x : FdInst) (c : Bool) (f : Flag) :
    State P :=
  respond (commandWord i) [] ((s.setFd r x).flagIf c f).nextDraw

section
variable (s : State P) (i : Instr) (r : Fin P.nFD) (x : FdInst) (c : Bool) (f : Flag)

theorem State.designed_sameBut :
    SameBut [.fd, .status, .rspOut, .draw] s (s.designed i r x c f) := by
  unfold State.designed
  constructor <;> simp

theorem State.designed_fdAt_self : (s.designed i r x c f).fdAt r = x := by
  simp [State.designed]

theorem State.designed_fdAt_ne {j : Fin P.nFD} (h : j ≠ r) :
    (s.designed i r x c f).fdAt j = s.fdAt j :=
  s.setFd_fdAt_ne x h.symm

theorem State.designed_status : (s.designed i r x c f).status = s.status ||| raised c f :=
  (s.setFd r x).flagIf_status_raised c f

theorem State.designed_answered : Answered i [] s (s.designed i r x c f) :=
  respond_answered i [] s _ rfl

end

/-- What FD.COMPUTE of a PDC with any parameters leaves (R176). -/
theorem execFor_fdCompute (i : Inst) (sh : Shape) (s : State P) (h : i.toNat < P.nFD) :
    execFor (.fdCompute i sh) s = .next (s.designed (.fdCompute i sh) ⟨i.toNat, h⟩
      (fdComputeShape P.fdDesign s.draws sh (s.fdAt ⟨i.toNat, h⟩)) (shapeWithoutFormula sh)
      .fShape) :=
  execFdCompute_ok h sh

/-- On this hardware the NaNs inside the formulas may be taken from the same draw as the others
(R187, U1). -/
theorem exec_fdCompute (i : Inst) (sh : Shape) (s : State) (h : i.toNat < thisHardware.nFD) :
    exec (.fdCompute i sh) s = .next (s.designed (.fdCompute i sh) ⟨i.toNat, h⟩
      (fdComputeShape (cookbookFrom s.draws) s.draws sh (s.fdAt ⟨i.toNat, h⟩))
      (shapeWithoutFormula sh) .fShape) := by
  rw [exec_eq_execFor, execFor_fdCompute i sh s h, thisHardware_fdDesign, cookbookDesign,
    fdComputeShape_cookbookFrom Config.designNaN s.draws]

/-- Settles O38. -/
theorem fdSetparamEffect : Obligations.FdSetparamEffect := by
  intro i c sr qual g s h
  refine ⟨s.draws, s.designed _ _ _ _ _, execFdSetparam_ok h c sr qual g,
    State.designed_sameBut .., fun j hj => State.designed_fdAt_ne _ _ _ _ _ _ hj, ?_,
    State.designed_status .., State.designed_answered ..⟩
  rw [State.designed_fdAt_self]
  rfl

/-- Settles O42. -/
theorem fdGetcoefEffect : Obligations.FdGetcoefEffect := by
  intro i s h
  exact ⟨_, execFdGetcoef_ok h, by constructor <;> simp, respond_answered _ _ _ _ rfl⟩

/-! ## FD.COMPUTE -/

theorem shapeWithoutFormula_eq (sh : Shape) :
    shapeWithoutFormula sh = decide (sh ∈ [Shape.brf, .peak, .lshelf, .hshelf, .parametric]) := by
  cases sh <;> rfl

/-- The implemented shapes of a design with their formulas (R176). -/
def formulaTable (D : FdDesign) : List (Shape × RawFormula) :=
  [(.lpf1, D.lpf1), (.hpf1, D.hpf1), (.lpf2, D.lpf2), (.hpf2, D.hpf2), (.apf1, D.apf1),
    (.apf2, D.apf2), (.bpf, D.bpf)]

theorem formulaOf?_of_mem_table {D : FdDesign} {e : Shape × RawFormula}
    (h : e ∈ formulaTable D) : formulaOf? D e.1 = some e.2 := by
  simp only [formulaTable, List.mem_cons, List.not_mem_nil, or_false] at h
  rcases h with rfl | rfl | rfl | rfl | rfl | rfl | rfl <;> rfl

/-- One line of the table of raw formulas: the shape, the numerator and the denominator. -/
def rawRow (sn cs qual : F32) (e : Shape × RawFormula) : Shape × List F32 × List F32 :=
  let c := e.2 sn cs qual
  (e.1, [c.n0, c.n1, c.n2], [c.d0, c.d1, c.d2])

/-- The coefficients of a shape are its line of the table, divided by `d0`. -/
theorem fdComputeShape_coefs_of_row {D : FdDesign} {sh : Shape} {f : FdInst}
    {n0 n1 n2 d0 d1 d2 : F32}
    (h : (sh, [n0, n1, n2], [d0, d1, d2]) ∈ (formulaTable D).map (rawRow f.sn f.cs f.q))
    (q : Nat → Word) :
    (fdComputeShape D q sh f).coefs = normalizedCoefs q ⟨n0, n1, n2, d0, d1, d2⟩ := by
  obtain ⟨e, he, hrow⟩ := List.mem_map.1 h
  simp only [rawRow, Prod.mk.injEq, List.cons.injEq, and_true] at hrow
  obtain ⟨rfl, ⟨rfl, rfl, rfl⟩, rfl, rfl, rfl⟩ := hrow
  exact fdComputeShape_coefs (formulaOf?_of_mem_table he) q f

/-- Settles O39: the seven lines of the statement are the table of the default formulas, with every
NaN from the state's draw. -/
theorem fdComputeEffect : Obligations.FdComputeEffect := by
  refine ⟨fun i sh s h => ?_, fun P i sh s h raw hraw => ?_⟩
  · refine ⟨s.draws, helperT s.draws (s.fdAt ⟨i.toNat, h⟩).cs,
      helperU s.draws (s.fdAt ⟨i.toNat, h⟩).cs,
      helperAlpha s.draws (s.fdAt ⟨i.toNat, h⟩).sn (s.fdAt ⟨i.toNat, h⟩).q,
      helperM s.draws (s.fdAt ⟨i.toNat, h⟩).cs, _, exec_fdCompute i sh s h,
      State.designed_sameBut .., fun j hj => State.designed_fdAt_ne _ _ _ _ _ _ hj, ?_⟩
    rw [State.designed_fdAt_self, ← shapeWithoutFormula_eq]
    refine ⟨fdComputeShape_eq_withCoefs _ _ sh _, ?_, rfl, rfl, rfl, rfl, ?_, fun hsh => ?_,
      State.designed_status .., State.designed_answered ..⟩
    · rintro rfl
      rw [fdComputeShape_flat]
      rfl
    · intro sn D1 D2 n0 n1 n2 d0 d1 d2 hrow
      exact fdComputeShape_coefs_of_row hrow s.draws
    · exact fdComputeShape_unwritten ((shapeWithoutFormula_eq sh).trans (decide_eq_true hsh)) _ _ _
  · refine ⟨s.draws, _, _, execFor_fdCompute i sh s h, rfl, ?_⟩
    rw [State.designed_fdAt_self]
    exact fdComputeShape_coefs hraw s.draws _

/-! ## The worked examples -/

/-- No value of the list is a NaN. -/
def noNaN (l : List F32) : Bool := l.all fun x => !isNaN x

theorem eq_of_forall₂_sameNumber {l m : List F32} (h : List.Forall₂ SameNumber l m)
    (hm : noNaN m = true) : l = m := by
  induction h with
  | nil => rfl
  | cons hxy _ ih =>
    obtain ⟨hy, htail⟩ : isNaN _ = false ∧ noNaN _ = true := by simpa [noNaN] using hm
    obtain rfl | ⟨-, hnan⟩ := hxy
    · rw [ih htail]
    · simp [hy] at hnan

/-- Coefficients of the default design that are no NaNs for one choice of the free words are the same
for every choice. -/
theorem fdComputeShape_cookbook_eq {sh : Shape} (h : shapeWithoutFormula sh = false)
    (q r : Nat → Word) {f g : FdInst} (hsn : f.sn = g.sn) (hcs : f.cs = g.cs) (hq : f.q = g.q)
    (hnan : noNaN (fdComputeShape (cookbookFrom r) r sh g).coefs = true) :
    (fdComputeShape (cookbookFrom q) q sh f).coefs =
      (fdComputeShape (cookbookFrom r) r sh g).coefs := by
  rw [fdComputeShape_cookbookFrom q r, fdComputeShape_coefs_congr h hsn hcs hq]
  exact eq_of_forall₂_sameNumber (fdComputeShape_coefs_draw h _ q r g) hnan

/-- The cache of V27: `sn = 1`, `cs = +0` and `Q = 0.5`. -/
def workedCache : FdInst := { FdInst.reset with sn := fOne, cs := fZero, q := fHalf }

/-- What FD.COMPUTE gives on that cache when every free word is 0. -/
def workedCoefs (sh : Shape) : List F32 :=
  (fdComputeShape (cookbookFrom fun _ => 0) (fun _ => 0) sh workedCache).coefs

/-- A line of V27 that this evaluation confirms without a NaN. -/
def confirmed (e : Shape × List F32) : Bool :=
  !shapeWithoutFormula e.1 && noNaN e.2 && decide (workedCoefs e.1 = e.2)

/-- One evaluation stands for every choice of the free words, since it meets no NaN. -/
theorem exec_fdCompute_worked {i : Inst} {s : State} (h : i.toNat < thisHardware.nFD)
    (hsn : (s.fdAt ⟨i.toNat, h⟩).sn = fOne) (hcs : (s.fdAt ⟨i.toNat, h⟩).cs = fZero)
    (hq : (s.fdAt ⟨i.toNat, h⟩).q = fHalf) {e : Shape × List F32} (he : confirmed e = true) :
    ∃ t, exec (.fdCompute i e.1) s = .next t ∧ (t.fdAt ⟨i.toNat, h⟩).coefs = e.2 := by
  obtain ⟨⟨hw, hnan⟩, heval⟩ : (shapeWithoutFormula e.1 = false ∧ noNaN e.2 = true) ∧
      workedCoefs e.1 = e.2 := by simpa [confirmed] using he
  refine ⟨_, exec_fdCompute i e.1 s h, ?_⟩
  rw [State.designed_fdAt_self]
  rw [← heval] at hnan ⊢
  exact fdComputeShape_cookbook_eq hw _ _ hsn hcs hq hnan

/-- Settles O41. -/
theorem filterWorkedExamples : Obligations.FilterWorkedExamples := by
  intro i s h hsn hcs hq e he
  exact exec_fdCompute_worked h hsn hcs hq (List.all_eq_true.1 (by decide +kernel) e he)

end Machine
end Sys2Proof
end

section
/-! PROOFS. The numbers of the oscillator: rounding does not pass a finite value, and where the
oscillator divides by 2π, takes a fraction or wraps a phase (42_oscillator.md R204, R205). -/

namespace Sys2Proof
namespace Machine

/-! ## Magnitudes and signs -/

theorem ulps_le_of_magBits_le {x y : F32} (h : magBits x ≤ magBits y) : ulps x ≤ ulps y := by
  rw [ulps_eq_magUlps, ulps_eq_magUlps y]
  exact magUlps_strictMono.monotone h

theorem ulps_fabs (x : F32) : ulps (fabs x) = ulps x := by
  rw [ulps_eq_magUlps, magBits_fabs, ← ulps_eq_magUlps]

theorem units_of_signBit_true {x : F32} (h : signBit x = true) : units x = -(ulps x : Int) := by
  rw [units, if_pos h]

/-! ## Rounding between finite values -/

section
variable {n d : Nat} {y : F32}

/-- Rounding does not pass a finite value from below (R13). -/
theorem ulps_roundUnits_le (neg : Bool) (hd : 0 < d) (hy : isFinite y = true)
    (h : n ≤ ulps y * d) :
    isFinite (roundUnits neg n d) = true ∧ ulps (roundUnits neg n d) ≤ ulps y := by
  have hfin : isFinite (roundUnits neg n d) = true := by
    have hmax := Nat.mul_le_mul_right d (ulps_le_of_isFinite hy)
    have hover := le_roundedBits_iff (n := n) hd
    rw [isFinite_roundUnits_iff]
    omega
  refine ⟨hfin, ?_⟩
  obtain ⟨hnear, -⟩ := roundUnits_nearest hd hfin y
  by_contra hlt
  have := Nat.mul_lt_mul_of_pos_right (Nat.lt_of_not_le hlt) hd
  omega

/-- Rounding does not pass a finite value from above (R13). -/
theorem le_ulps_roundUnits {neg : Bool} (hd : 0 < d) (hfin : isFinite (roundUnits neg n d) = true)
    (h : ulps y * d ≤ n) : ulps y ≤ ulps (roundUnits neg n d) := by
  obtain ⟨hnear, -⟩ := roundUnits_nearest hd hfin y
  by_contra hlt
  have := Nat.mul_lt_mul_of_pos_right (Nat.lt_of_not_le hlt) hd
  omega

end

section
variable (q : Word) {a b x y : F32}

/-- A sum between two finite values is rounded to a value between them. -/
theorem fadd_between (hx : isFinite x = true) (hy : isFinite y = true) (ha : isFinite a = true)
    (hb : isFinite b = true) (hlow : units a ≤ units x + units y)
    (hup : units x + units y ≤ units b) :
    isFinite (fadd q x y) = true ∧ units a ≤ units (fadd q x y) ∧ units (fadd q x y) ≤ units b := by
  have haabs := natAbs_units a
  have hbabs := natAbs_units b
  rw [fadd_of_isFinite q hx hy]
  generalize units x + units y = n at hlow hup ⊢
  split_ifs with hzero hsign
  · subst hzero
    exact ⟨rfl, hlow, hup⟩
  · subst hzero
    exact ⟨rfl, hlow, hup⟩
  · rcases lt_or_gt_of_ne hzero with hneg | hpos
    · obtain ⟨hfin, hle⟩ := ulps_roundUnits_le (n := n.natAbs) true Nat.one_pos ha (by omega)
      have hge := le_ulps_roundUnits (y := b) Nat.one_pos hfin
      rw [decide_eq_true hneg]
      refine ⟨hfin, ?_⟩
      rw [units_of_signBit_true (signBit_roundUnits ..)]
      omega
    · obtain ⟨hfin, hle⟩ := ulps_roundUnits_le (n := n.natAbs) false Nat.one_pos hb (by omega)
      have hge := le_ulps_roundUnits (y := a) Nat.one_pos hfin
      rw [decide_eq_false hpos.le.not_gt]
      refine ⟨hfin, ?_⟩
      rw [units_of_signBit_false (signBit_roundUnits ..)]
      omega

theorem fsub_between (hx : isFinite x = true) (hy : isFinite y = true) (ha : isFinite a = true)
    (hb : isFinite b = true) (hlow : units a ≤ units x - units y)
    (hup : units x - units y ≤ units b) :
    isFinite (fsub q x y) = true ∧ units a ≤ units (fsub q x y) ∧ units (fsub q x y) ≤ units b := by
  rw [sub_eq_add_neg, ← units_fneg] at hlow hup
  exact fadd_between q hx (by rwa [isFinite_fneg]) ha hb hlow hup

/-- A product is at most a finite value that its exact magnitude does not pass. -/
theorem ulps_fmul_le (hx : isFinite x = true) (hy : isFinite y = true) (ha : isFinite a = true)
    (h : ulps x * ulps y ≤ ulps a * 2 ^ 149) :
    isFinite (fmul q x y) = true ∧ ulps (fmul q x y) ≤ ulps a := by
  rw [fmul_of_isFinite q hx hy]
  exact ulps_roundUnits_le _ (Nat.two_pow_pos 149) ha h

theorem fdiv_of_isFinite (hx : isFinite x = true) (hy : isFinite y = true)
    (hz : isZero y = false) :
    fdiv q x y = roundUnits (signBit x != signBit y) (ulps x * 2 ^ 149) (ulps y) := by
  simp [fdiv, not_isNaN_of_isFinite hx, not_isNaN_of_isFinite hy, not_isInf_of_isFinite hx,
    not_isInf_of_isFinite hy, hz]

/-- A zero over a number that is not zero, an infinity included. -/
theorem isZero_fdiv_of_not_zero (hx : isZero x = true) (hn : isNaN y = false)
    (hz : isZero y = false) : isZero (fdiv q x y) = true := by
  rcases float_cases y with h | h | h
  · exact absurd h (by simp [hn])
  · rw [fdiv_finite_inf q (isFinite_of_isZero hx) h, isZero_withSign]
  · exact isZero_fdiv q hx h hz

theorem fInf_signBit (h : isInf x = true) : fInf (signBit x) = x := by
  rw [fInf, ← isInf_iff.1 h, withSign_magBits]

theorem not_isFinite_of_isNaN (h : isNaN x = true) : isFinite x = false := by
  simp only [isNaN, decide_eq_true_eq] at h
  simp only [isFinite, decide_eq_false_iff_not]
  omega

/-- A difference of a value that is not finite with itself. -/
theorem isNaN_fsub_self (h : isFinite x = false) : isNaN (fsub q x x) = true := by
  rcases float_cases x with hn | hi | hf
  · obtain ⟨-, hsub, -⟩ := arithmetic_nan q (.inl hn : isNaN x = true ∨ isNaN x = true)
    rw [hsub, isNaN_nanOf]
  · obtain ⟨-, -, hsame, -⟩ := arithmetic_inf_inf q hi hi
    rw [(hsame rfl).1, isNaN_nanOf]
  · exact absurd hf (by simp [h])

end

/-! ## The values that are compared with -/

theorem isZero_iff_units {x : F32} : isZero x = true ↔ units x = 0 := by
  rw [← ulps_eq_zero, ← natAbs_units, Int.natAbs_eq_zero]

theorem isZero_or_positive {x : F32} (h : 0 ≤ units x) :
    isZero x = true ∨ (signBit x = false ∧ units x = ulps x) := by
  cases hs : signBit x
  · exact .inr ⟨rfl, units_of_signBit_false hs⟩
  · have hneg := units_of_signBit_true hs
    exact .inl (ulps_eq_zero.1 (by omega))

theorem units_fZero : units fZero = 0 := by decide

theorem units_fOne : units fOne = 2 ^ 149 := by decide

theorem fge_fZero_iff {x : F32} (h : isFinite x = true) : fge x fZero = true ↔ 0 ≤ units x := by
  rw [fge, fle_of_isFinite rfl h, units_fZero, decide_eq_true_eq]

theorem flt_fOne_iff {x : F32} (h : isFinite x = true) :
    flt x fOne = true ↔ units x < 2 ^ 149 := by
  rw [flt_of_isFinite h rfl, units_fOne, decide_eq_true_eq]

theorem fle_fabs_fOne_iff {x : F32} (h : isFinite x = true) :
    fle (fabs x) fOne = true ↔ ulps x ≤ 2 ^ 149 := by
  have hfin : isFinite (fabs x) = true := by rwa [isFinite, magBits_fabs]
  rw [fle_of_isFinite hfin rfl, units_of_signBit_false (signBit_fabs x), ulps_fabs, units_fOne,
    decide_eq_true_eq]
  omega

/-- What `<=` says of a magnitude and a finite bound. -/
theorem isFinite_ulps_of_fle_fabs {x b : F32} (hb : isFinite b = true)
    (h : fle (fabs x) b = true) : isFinite x = true ∧ ulps x ≤ ulps b := by
  obtain ⟨-, -, hkey⟩ := fle_iff.1 h
  have hb' := isFinite_iff.1 hb
  have hmag : magBits x ≤ magBits b := by
    simp only [orderKey, signBit_fabs, magBits_fabs, Bool.false_eq_true, if_false] at hkey
    split_ifs at hkey <;> omega
  exact ⟨isFinite_iff.2 (by omega), ulps_le_of_magBits_le hmag⟩

/-- The largest value below 1. -/
def fBelowOne : F32 := 0x3F7FFFFF

/-- The largest value below 2. -/
def fBelowTwo : F32 := 0x3FFFFFFF

/-- The largest value below 2π. -/
def fBelowTwoPi : F32 := 0x40C90FDA

/-- What lies below a value is at most the word before it. -/
theorem ulps_le_of_lt_next {x y z : F32} (hnext : magBits z = magBits y + 1)
    (h : ulps x < ulps z) : ulps x ≤ ulps y := by
  have hmag := ulps_lt_iff.1 h
  exact ulps_le_of_magBits_le (by omega)

/-! ## `frac` (R205) -/

theorem isNaN_frac (q : Word) {x : F32} (h : isFinite x = false) : isNaN (frac q x) = true := by
  have hnan := isNaN_fsub_self q h
  obtain ⟨-, -, -, hge, -⟩ := compare_nan (.inl hnan : _ ∨ isNaN fOne = true)
  rw [frac, ffloor_passes (.inl h), if_neg (by simp [hge])]
  exact hnan

/-- The difference may round to 1; the guard replaces it by `+0`. -/
theorem frac_bounds (q : Word) {x : F32} (h : isFinite x = true) :
    isFinite (frac q x) = true ∧ 0 ≤ units (frac q x) ∧ units (frac q x) < 2 ^ 149 := by
  obtain ⟨hfloor, k, hk, hlow, hup⟩ := ffloor_spec h
  obtain ⟨hfin, hge, -⟩ := fsub_between q h hfloor (a := fZero) (b := fOne) rfl rfl
    (by rw [units_fZero]; omega) (by rw [units_fOne]; omega)
  rw [units_fZero] at hge
  by_cases hone : fge (fsub q x (ffloor x)) fOne = true
  · rw [frac, if_pos hone]
    decide
  · rw [frac, if_neg hone]
    rw [fge, fle_of_isFinite rfl hfin, units_fOne, decide_eq_true_eq] at hone
    exact ⟨hfin, hge, by omega⟩

theorem frac_range (q : Word) {x : F32} (h : isFinite x = true) :
    fge (frac q x) fZero = true ∧ flt (frac q x) fOne = true := by
  obtain ⟨hfin, hlow, hup⟩ := frac_bounds q h
  exact ⟨(fge_fZero_iff hfin).2 hlow, (flt_fOne_iff hfin).2 hup⟩

theorem frac_fNegZero (q : Word) : frac q fNegZero = fZero := by
  have hdiff : fsub q fNegZero (ffloor fNegZero) = fZero := by
    rw [ffloor_passes (.inr rfl), fsub_exact_zero q rfl rfl rfl]
    decide
  rw [frac, hdiff]
  decide

/-- Settles O46: the difference lies in `[0, 1]` before the guard. -/
theorem fractionRange : Obligations.FractionRange := fun q _ =>
  ⟨frac_range q, isNaN_frac q, frac_fNegZero q⟩

/-! ## Quotients by 2π -/

theorem isFinite_fdiv_fTwoPi (q : Word) {x : F32} (h : isFinite x = true) :
    isFinite (fdiv q x fTwoPi) = true := by
  have hbig : 2 ^ 149 ≤ ulps fTwoPi := by decide
  rw [fdiv_of_isFinite q h rfl rfl]
  exact (ulps_roundUnits_le _ (by omega) h (Nat.mul_le_mul_left _ hbig)).1

/-- A value below 2π is rounded to a quotient below 1. -/
theorem fdiv_fTwoPi_bounds (q : Word) {x : F32} (h : isFinite x = true) (hlow : 0 ≤ units x)
    (hup : units x < units fTwoPi) :
    isFinite (fdiv q x fTwoPi) = true ∧ 0 ≤ units (fdiv q x fTwoPi) ∧
      units (fdiv q x fTwoPi) < 2 ^ 149 := by
  obtain hz | ⟨hsign, hunits⟩ := isZero_or_positive hlow
  · have hquot := isZero_fdiv q hz (x := fTwoPi) rfl rfl
    rw [isZero_iff_units.1 hquot]
    exact ⟨isFinite_of_isZero hquot, by decide⟩
  · have htwoPi : units fTwoPi = ulps fTwoPi := by decide
    have hbelow : ulps x ≤ ulps fBelowTwoPi :=
      ulps_le_of_lt_next (z := fTwoPi) rfl (by omega)
    have hratio : ulps fBelowTwoPi * 2 ^ 149 ≤ ulps fBelowOne * ulps fTwoPi := by decide
    obtain ⟨hfin, hle⟩ := ulps_roundUnits_le (y := fBelowOne) false (by decide : 0 < ulps fTwoPi) rfl
      ((Nat.mul_le_mul_right _ hbelow).trans hratio)
    have hone := hle.trans_lt (by decide : ulps fBelowOne < 2 ^ 149)
    rw [fdiv_of_isFinite q h rfl rfl, hsign, show (false != signBit fTwoPi) = false from rfl,
      units_of_signBit_false (signBit_roundUnits ..)]
    exact ⟨hfin, Int.natCast_nonneg _, by exact_mod_cast hone⟩

/-! ## `wrap` (R204) -/

section
variable (q : Nat → Word) {p r : F32}

/-- The four lines of R204, with every intermediate value named. -/
theorem wrapPhase_lines {k r' : F32} (hk : k = ffloor (fdiv (q 4) p fTwoPi))
    (hr : r = fsub (q 6) p (fmul (q 5) fTwoPi k))
    (hr' : r' = if flt r fZero = true then fadd (q 7) r fTwoPi else r) :
    wrapPhase q p = if fge r' fTwoPi = true then fsub (q 8) r' fTwoPi else r' := by
  rw [hr', hr, hk, wrapPhase]

/-- Where neither correction is needed the phase is the first remainder. -/
theorem wrapPhase_of_remainder
    (hr : fsub (q 6) p (fmul (q 5) fTwoPi (ffloor (fdiv (q 4) p fTwoPi))) = r)
    (hlow : flt r fZero = false) (hhigh : fge r fTwoPi = false) : wrapPhase q p = r := by
  simp [wrapPhase, hr, hlow, hhigh]

/-- The remainder of a value that is not finite is a NaN. -/
theorem isNaN_remainder (h : isFinite p = false) :
    isNaN (fsub (q 6) p (fmul (q 5) fTwoPi (ffloor (fdiv (q 4) p fTwoPi)))) = true := by
  rcases float_cases p with hn | hi | hf
  · rw [fsub, fadd_nan_left _ _ hn, isNaN_nanOf]
  · have hquot : fdiv (q 4) p fTwoPi = p := by
      rw [fdiv_inf_left (q 4) hi rfl, show (signBit p != signBit fTwoPi) = signBit p from
        Bool.xor_false _, fInf_signBit hi]
      rfl
    have hprod : fmul (q 5) fTwoPi p = p := by
      rw [fmul_inf_right (q 5) rfl hi, show (signBit fTwoPi != signBit p) = signBit p from
        Bool.false_xor _, fInf_signBit hi]
      rfl
    rw [hquot, ffloor_passes (.inl h), hprod]
    exact isNaN_fsub_self (q 6) h
  · exact absurd hf (by simp [h])

theorem isNaN_wrapPhase (h : isFinite p = false) : isNaN (wrapPhase q p) = true := by
  have hnan := isNaN_remainder q h
  obtain ⟨hlt, -⟩ := compare_nan (.inl hnan : _ ∨ isNaN fZero = true)
  obtain ⟨-, -, -, hge, -⟩ := compare_nan (.inl hnan : _ ∨ isNaN fTwoPi = true)
  rwa [wrapPhase_of_remainder q rfl hlt hge]

/-- A phase in `[0, 2π)` is its own remainder. -/
theorem wrapPhase_exactly (h : isFinite p = true) (hlow : 0 ≤ units p)
    (hup : units p < units fTwoPi) : Exactly (wrapPhase q p) p := by
  obtain ⟨hquot, hq0, hq1⟩ := fdiv_fTwoPi_bounds (q 4) h hlow hup
  obtain ⟨-, k, hk, hkle, hklt⟩ := ffloor_spec hquot
  have hfloor : isZero (ffloor (fdiv (q 4) p fTwoPi)) = true :=
    isZero_iff_units.2 (by omega)
  have hrem : Exactly (fsub (q 6) p (fmul (q 5) fTwoPi (ffloor (fdiv (q 4) p fTwoPi)))) p :=
    fadd_zero_exactly (q 6) h (isZero_fneg.trans (isZero_fmul (q 5) rfl hfloor))
  rw [wrapPhase_of_remainder q rfl]
  · exact hrem
  · rw [flt_of_isFinite hrem.finite rfl, hrem.value, units_fZero, decide_eq_false (by omega)]
  · rw [fge, fle_of_isFinite rfl hrem.finite, hrem.value, decide_eq_false (by omega)]

end

end Machine
end Sys2Proof
end

section
/-! PROOFS. The waveforms (42_oscillator.md R210 to R216): their ranges at a finite angle, and that a
NaN angle gives a NaN. -/

namespace Sys2Proof
namespace Machine

/-! ## Ranges -/

section
variable (q : Nat → Word) {angle : F32}

theorem isFinite_fadd_fPi (w : Word) (h : isFinite angle = true) :
    isFinite (fadd w angle fPi) = true := by
  have hmax := ulps_le_of_isFinite h
  have hpi : ulps fPi = 0xC90FDB * 2 ^ 127 := by decide
  have hsum := Int.natAbs_add_le (units angle) (units fPi)
  rw [natAbs_units, natAbs_units, hpi] at hsum
  rw [fadd_of_isFinite w h rfl]
  split_ifs
  · rfl
  · rfl
  · have hover := le_roundedBits_iff (n := (units angle + units fPi).natAbs) Nat.one_pos
    rw [isFinite_roundUnits_iff]
    omega

/-- R211: the constant is a little less than the inverse of the bound of `fasin`. -/
theorem waveTriangle_range (h : isFinite angle = true) :
    fle (fabs (waveTriangle q angle)) fOne = true := by
  obtain ⟨hfin, hle⟩ := isFinite_ulps_of_fle_fabs rfl (fasin_range (q 1) (fsin_range (q 0) h))
  have hconst : ulps fTriK * ulps fHalfPi ≤ ulps fOne * 2 ^ 149 := by decide
  obtain ⟨hprod, hbound⟩ := ulps_fmul_le (q 2) (x := fTriK) rfl hfin (a := fOne) rfl
    ((Nat.mul_le_mul_left _ hle).trans hconst)
  exact (fle_fabs_fOne_iff hprod).2 (hbound.trans_eq (by decide))

/-- R213: at a finite angle the sine is a number, so one of the three comparisons holds. -/
theorem waveSquare_cases (h : isFinite angle = true) :
    waveSquare q angle = fOne ∨ waveSquare q angle = fneg fOne ∨ waveSquare q angle = fZero := by
  obtain ⟨hfin, -⟩ := isFinite_ulps_of_fle_fabs rfl (fsin_range (q 0) h)
  unfold waveSquare
  simp only
  split_ifs with hpos hneg hzero
  · exact .inl rfl
  · exact .inr (.inl rfl)
  · exact .inr (.inr rfl)
  · rw [fgt, flt_of_isFinite rfl hfin, decide_eq_true_eq] at hpos
    rw [flt_of_isFinite hfin rfl, decide_eq_true_eq] at hneg
    rw [feq_of_isFinite hfin rfl, decide_eq_true_eq] at hzero
    omega

theorem waveSquare_range (h : isFinite angle = true) :
    fle (fabs (waveSquare q angle)) fOne = true := by
  obtain heq | heq | heq := waveSquare_cases q h <;> rw [heq] <;> rfl

theorem wavePhasor_range (h : isFinite angle = true) :
    fge (wavePhasor q angle) fZero = true ∧ flt (wavePhasor q angle) fOne = true :=
  frac_range (q 1) (isFinite_fdiv_fTwoPi (q 0) h)

theorem wavePhasorInv_range (h : isFinite angle = true) :
    fge (wavePhasorInv q angle) fZero = true ∧ flt (wavePhasorInv q angle) fOne = true :=
  frac_range (q 2) (isFinite_fdiv_fTwoPi (q 1) (isFinite_fadd_fPi (q 0) h))

/-- Twice a value in `[0, 1)` is at most the largest value below 2. -/
theorem fmul_fTwo_bounds (w : Word) {x : F32} (h : isFinite x = true) (hlow : 0 ≤ units x)
    (hup : units x < 2 ^ 149) :
    isFinite (fmul w fTwo x) = true ∧ 0 ≤ units (fmul w fTwo x) ∧
      units (fmul w fTwo x) ≤ (2 ^ 24 - 1) * 2 ^ 126 := by
  obtain hz | ⟨hsign, hval⟩ := isZero_or_positive hlow
  · have hprod := isZero_fmul w (x := fTwo) rfl hz
    rw [isZero_iff_units.1 hprod]
    exact ⟨isFinite_of_isZero hprod, by decide⟩
  · have hone : (ulps fOne : Int) = 2 ^ 149 := by decide
    have hbelow : ulps x ≤ ulps fBelowOne := ulps_le_of_lt_next (z := fOne) rfl (by omega)
    have hratio : ulps fTwo * ulps fBelowOne ≤ ulps fBelowTwo * 2 ^ 149 := by decide
    obtain ⟨hfin, hle⟩ := ulps_fmul_le w (x := fTwo) rfl h (a := fBelowTwo) rfl
      ((Nat.mul_le_mul_left _ hbelow).trans hratio)
    have hpos : signBit (fmul w fTwo x) = false := by
      rw [fmul_of_isFinite w rfl h, hsign]
      exact signBit_roundUnits ..
    have htop : (ulps fBelowTwo : Int) = (2 ^ 24 - 1) * 2 ^ 126 := by decide
    rw [units_of_signBit_false hpos, ← htop]
    exact ⟨hfin, Int.natCast_nonneg _, Int.ofNat_le.2 hle⟩

/-- R212: twice the fraction less 1 stays below 1, because the fraction is at most the largest value
below 1. -/
theorem waveSawtooth_range (h : isFinite angle = true) :
    fge (waveSawtooth q angle) (fneg fOne) = true ∧ flt (waveSawtooth q angle) fOne = true := by
  obtain ⟨hfrac, hlow, hup⟩ := frac_bounds (q 1) (isFinite_fdiv_fTwoPi (q 0) h)
  obtain ⟨htwice, hlow2, hup2⟩ := fmul_fTwo_bounds (q 2) hfrac hlow hup
  have hneg : units (fneg fOne) = -2 ^ 149 := by decide
  have htop : units fBelowOne = (2 ^ 24 - 1) * 2 ^ 125 := by decide
  obtain ⟨hfin, hge, hle⟩ := fsub_between (q 3) htwice (y := fOne) rfl (a := fneg fOne)
    (b := fBelowOne) rfl rfl (by rw [hneg, units_fOne]; omega) (by rw [htop, units_fOne]; omega)
  rw [htop] at hle
  refine ⟨?_, (flt_fOne_iff hfin).2 (by omega)⟩
  rw [fge, waveSawtooth, fle_of_isFinite rfl hfin, decide_eq_true_eq]
  exact hge

end

/-- Settles O47, waveform by waveform. -/
theorem waveformRanges : Obligations.WaveformRanges := fun q _ h =>
  ⟨fsin_range (q 0) h, waveTriangle_range q h, waveSquare_range q h, waveSawtooth_range q h,
    wavePhasor_range q h, wavePhasorInv_range q h⟩

/-! ## A NaN angle (R204) -/

section
variable (q : Nat → Word) {angle : F32} (h : isNaN angle = true)
include h

theorem isNaN_fsin (w : Word) : isNaN (fsin w angle) = true := (trans_nan w h).1

theorem isNaN_fmul_right (w : Word) (x : F32) : isNaN (fmul w x angle) = true := by
  rw [fmul_nan_right _ _ h, isNaN_nanOf]

theorem isNaN_fadd_left (w : Word) (y : F32) : isNaN (fadd w angle y) = true := by
  rw [fadd_nan_left _ _ h, isNaN_nanOf]

theorem isNaN_waveTriangle : isNaN (waveTriangle q angle) = true := by
  obtain ⟨-, -, hasin, -⟩ := trans_nan (q 1) (isNaN_fsin h (q 0))
  exact isNaN_fmul_right hasin (q 2) fTriK

theorem isNaN_frac_fdiv (v w : Word) : isNaN (frac w (fdiv v angle fTwoPi)) = true := by
  rw [fdiv_nan_left v _ h]
  exact isNaN_frac w (not_isFinite_of_isNaN (isNaN_nanOf v))

theorem isNaN_waveSawtooth : isNaN (waveSawtooth q angle) = true :=
  isNaN_fadd_left (isNaN_fmul_right (isNaN_frac_fdiv h (q 0) (q 1)) (q 2) fTwo) (q 3) _

theorem isNaN_waveSquare : isNaN (waveSquare q angle) = true := by
  have hsin := isNaN_fsin h (q 0)
  obtain ⟨hlt, -, hgt, -, heq⟩ := compare_nan (.inl hsin : _ ∨ isNaN fZero = true)
  simpa [waveSquare, hlt, hgt, heq] using hsin

theorem isNaN_trapezoidTerm (acc : F32) (k : Nat) :
    isNaN (trapezoidTerm q angle acc k) = true := by
  have hsin := isNaN_fsin (isNaN_fmul_right h (q (4 * k)) (u2f (BitVec.ofNat 32 (2 * k + 1))))
    (q (4 * k + 1))
  rw [trapezoidTerm, fdiv_nan_left _ _ hsin, fadd_nan_right _ _ (isNaN_nanOf _), isNaN_nanOf]

/-- The last term makes the sum a NaN. -/
theorem isNaN_foldl_trapezoidTerm (acc : F32) (n : Nat) :
    isNaN ((List.range (n + 1)).foldl (trapezoidTerm q angle) acc) = true := by
  rw [List.range_succ, List.foldl_append]
  exact isNaN_trapezoidTerm q h _ n

theorem isNaN_waveTrapezoid : isNaN (waveTrapezoid q angle) = true := by
  unfold waveTrapezoid
  exact isNaN_foldl_trapezoidTerm q h fZero 15

theorem isNaN_wavePhasorInv : isNaN (wavePhasorInv q angle) = true :=
  isNaN_frac_fdiv (isNaN_fadd_left h (q 0) fPi) (q 1) (q 2)

theorem isNaN_wave (wv : Wave) : isNaN (wave q wv angle) = true := by
  cases wv with
  | sine => exact isNaN_fsin h (q 0)
  | triangle => exact isNaN_waveTriangle q h
  | sawtooth => exact isNaN_waveSawtooth q h
  | square => exact isNaN_waveSquare q h
  | trapezoid => exact isNaN_waveTrapezoid q h
  | phasor => exact isNaN_frac_fdiv h (q 0) (q 1)
  | phasorInv => exact isNaN_wavePhasorInv q h

end

end Machine
end Sys2Proof
end

section
/-! PROOFS. OSC.PROCESS (42_oscillator.md R201, R204, R206): the state it leaves, a NaN phase, and a
frequency of zero. -/

namespace Sys2Proof
namespace Machine

variable {P : Params}

/-! ## The state after the command -/

/-- The state after OSC.PROCESS: the registers of oscillator `r` are `x`, the answer is `y`, and
`F_PARAM` is raised if `c`. -/
def State.oscillated (s : State P) (i : Instr) (r : Fin P.nOSC) (x : OscInst) (y : F32) (c : Bool) :
    State P :=
  respond (commandWord i) [y] ((s.setOsc r x).flagIf c .fParam).nextDraw

section
variable (s : State P) (i : Instr) (r : Fin P.nOSC) (x : OscInst) (y : F32) (c : Bool)

theorem State.oscillated_sameBut :
    SameBut [.osc, .status, .rspOut, .draw] s (s.oscillated i r x y c) := by
  unfold State.oscillated
  constructor <;> simp

theorem State.oscillated_oscAt_self : (s.oscillated i r x y c).oscAt r = x := by
  simp [State.oscillated]

theorem State.oscillated_oscAt_ne {j : Fin P.nOSC} (h : j ≠ r) :
    (s.oscillated i r x y c).oscAt j = s.oscAt j :=
  s.setOsc_oscAt_ne x h.symm

theorem State.oscillated_status : (s.oscillated i r x y c).status = s.status ||| raised c .fParam :=
  (s.setOsc r x).flagIf_status_raised c .fParam

theorem State.oscillated_answered : Answered i [y] s (s.oscillated i r x y c) :=
  respond_answered i [y] s _ rfl

end

section
variable (i : Inst) (wv : Wave) (f sr po : F32)

/-- What OSC.PROCESS of a PDC with any parameters leaves (R201). -/
theorem execFor_oscProcess (s : State P) (h : i.toNat < P.nOSC) :
    execFor (.oscProcess i wv f sr po) s =
      .next (s.oscillated (.oscProcess i wv f sr po) ⟨i.toNat, h⟩
        (oscAdvance P.oscPhaseWrap s.draws f sr (s.oscAt ⟨i.toNat, h⟩))
        (oscSample s.draws wv po (s.oscAt ⟨i.toNat, h⟩)) (oscParamBad sr)) :=
  execOscProcess_ok h wv f sr po

theorem exec_oscProcess (s : State) (h : i.toNat < thisHardware.nOSC) :
    exec (.oscProcess i wv f sr po) s =
      .next (s.oscillated (.oscProcess i wv f sr po) ⟨i.toNat, h⟩
        (oscAdvance true s.draws f sr (s.oscAt ⟨i.toNat, h⟩))
        (oscSample s.draws wv po (s.oscAt ⟨i.toNat, h⟩)) (oscParamBad sr)) := by
  rw [exec_eq_execFor, execFor_oscProcess i wv f sr po s h, thisHardware_oscPhaseWrap]

end

theorem oscAdvance_wrapped (q : Nat → Word) (f sr : F32) (o : OscInst) :
    oscAdvance true q f sr o =
      { phase := wrapPhase q (fadd (q 3) o.phase (fdiv (q 2) (fmul (q 1) fTwoPi f) sr))
        sampleRate := sr, frequency := f } := by
  rw [oscAdvance, if_pos rfl]

theorem oscAdvance_unwrapped (q : Nat → Word) (f sr : F32) (o : OscInst) :
    oscAdvance false q f sr o =
      { phase := fadd (q 3) o.phase (fdiv (q 2) (fmul (q 1) fTwoPi f) sr)
        sampleRate := sr, frequency := f } := by
  rw [oscAdvance, if_neg Bool.false_ne_true]

/-- Settles O43: the formulas are those of the definition, with every NaN from the state's draw. -/
theorem oscProcessEffect : Obligations.OscProcessEffect := by
  refine ⟨fun i wv f sr po s h => ?_, fun P i wv f sr po s h hoff => ?_⟩
  · refine ⟨s.draws, drawsFrom s.draws 16, _, _, _, _, _, _, _, exec_oscProcess i wv f sr po s h,
      State.oscillated_sameBut .., fun j hj => State.oscillated_oscAt_ne _ _ _ _ _ _ hj, rfl, rfl, rfl,
      rfl, ?_, rfl, ?_, State.oscillated_status .., State.oscillated_answered ..⟩
    · rw [State.oscillated_oscAt_self, oscAdvance_wrapped,
        wrapPhase_lines s.draws rfl rfl rfl]
      rfl
    · -- The draws and the angle are made opaque, so that comparing the formulas computes nothing.
      rw [oscSample]
      generalize drawsFrom s.draws 16 = v
      generalize fadd (s.draws 0) (s.oscAt ⟨i.toNat, h⟩).phase po = angle
      cases wv with
      | trapezoid => exact waveTrapezoid_eq v angle
      | sine | triangle | sawtooth | square | phasor | phasorInv => rfl
  · refine ⟨s.draws, _, execFor_oscProcess i wv f sr po s h, ?_⟩
    rw [State.oscillated_oscAt_self, hoff, oscAdvance_unwrapped]
    rfl

/-! ## A NaN phase (R204) -/

theorem isNaN_oscSample (q : Nat → Word) (wv : Wave) (po : F32) {o : OscInst}
    (h : isNaN o.phase = true) : isNaN (oscSample q wv po o) = true :=
  isNaN_wave _ (isNaN_fadd_left h _ po) wv

theorem isNaN_oscAdvance_phase (q : Nat → Word) (f sr : F32) {o : OscInst}
    (h : isNaN o.phase = true) : isNaN (oscAdvance true q f sr o).phase = true := by
  rw [oscAdvance_wrapped]
  exact isNaN_wrapPhase q (not_isFinite_of_isNaN (isNaN_fadd_left h (q 3) _))

/-- Settles O44: the remainder of a sum that is not finite is a NaN, which no comparison corrects. -/
theorem nanPhasePersists : Obligations.NanPhasePersists := by
  refine ⟨fun q p => isNaN_wrapPhase q, fun i wv f sr po s h hnan =>
    ⟨_, _, exec_oscProcess i wv f sr po s h, ?_, State.oscillated_answered ..,
      isNaN_oscSample _ wv po hnan⟩⟩
  rw [State.oscillated_oscAt_self]
  exact isNaN_oscAdvance_phase _ f sr hnan

/-! ## A frequency of zero (R221) -/

/-- A phase in `[0, 2π)` plus an increment of zero is wrapped to itself. -/
theorem oscAdvance_zero_frequency (q : Nat → Word) {f sr : F32} {o : OscInst}
    (hf : isZero f = true) (hn : isNaN sr = false) (hz : isZero sr = false)
    (hfin : isFinite o.phase = true) (hlow : 0 ≤ units o.phase)
    (hup : units o.phase < units fTwoPi) :
    Exactly (oscAdvance true q f sr o).phase o.phase := by
  have hinc := isZero_fdiv_of_not_zero (q 2) (isZero_fmul (q 1) (x := fTwoPi) rfl hf) hn hz
  have hsum := fadd_zero_exactly (q 3) hfin hinc
  rw [oscAdvance_wrapped]
  exact (wrapPhase_exactly q hsum.finite (hlow.trans_eq hsum.value.symm)
    (hsum.value.trans_lt hup)).trans hsum

/-- The words in `[0, 2π)` are finite. -/
theorem units_of_phase_range {x : F32} (hlow : fge x fZero = true) (hup : flt x fTwoPi = true) :
    isFinite x = true ∧ 0 ≤ units x ∧ units x < units fTwoPi := by
  have hfin : isFinite x = true := by
    obtain ⟨-, hnan, -⟩ := fle_iff.1 hlow
    rcases float_cases x with hn | hi | hf
    · exact absurd hn (by simp [hnan])
    · have hsign : signBit x = true := (flt_inf_finite (y := fTwoPi) hi rfl).symm.trans hup
      have hbelow : flt x fZero = true := (flt_inf_finite hi rfl).trans hsign
      rw [fge, fle_of_not_nan rfl hnan, hbelow] at hlow
      exact absurd hlow (by decide)
    · exact hf
  rw [flt_of_isFinite hfin rfl, decide_eq_true_eq] at hup
  exact ⟨hfin, (fge_fZero_iff hfin).1 hlow, hup⟩

/-- Settles O45: the increment is a zero, and a phase in `[0, 2π)` is its own remainder. -/
theorem zeroFrequencyKeepsPhase : Obligations.ZeroFrequencyKeepsPhase := by
  intro i wv f sr po s h hf hn hz hlow hup
  obtain ⟨hfin, hnonneg, hlt⟩ := units_of_phase_range hlow hup
  refine ⟨_, exec_oscProcess i wv f sr po s h, ?_⟩
  rw [State.oscillated_oscAt_self]
  exact (oscAdvance_zero_frequency _ hf hn hz hfin hnonneg hlt).feq hfin

end Machine
end Sys2Proof
end

section
/-! PROOFS. SM.CONFIG and SM.PROCESS (43_smoother.md R231, R233, R235), and the smoother that was never
configured (R237): multiplying by 1 changes no number and adding a zero is exact. -/

namespace Sys2Proof
namespace Machine

/-! ## The commands -/

/-- Settles O48. -/
theorem smConfigEffect : Obligations.SmConfigEffect := by
  intro i ms sr s h
  refine ⟨s.draws, _, execSmConfig_ok h ms sr, by constructor <;> simp,
    fun j hj => s.setSm_smAt_ne _ hj.symm, ?_, (s.setSm _ _).flagIf_status_raised _ .fParam,
    respond_answered _ _ _ _ rfl⟩
  rw [respond_smAt, State.nextDraw_smAt, State.flagIf_smAt, State.setSm_smAt_self]
  rfl

/-- The snap is the only difference between the variants (R235). -/
theorem smNext_eq (q : Nat → Word) (v : SmVar) (x : F32) (m : SmInst) :
    smNext q v x m = if v = .snap ∧ smSnaps q x m = true then x else smRamp q x m := by
  cases v with
  | basic => exact (if_neg fun hsnap => nomatch hsnap.1).symm
  | snap => simp only [smNext, true_and]

/-- Settles O49. -/
theorem smProcessEffect : Obligations.SmProcessEffect := by
  intro i v x s h
  refine ⟨s.draws, smRamp s.draws x (s.smAt ⟨i.toNat, h⟩), _, _, execSmProcess_ok h v x,
    by constructor <;> simp, fun j hj => s.setSm_smAt_ne _ hj.symm, rfl, smNext_eq .., ?_,
    respond_answered _ _ _ _ rfl⟩
  rw [respond_smAt, State.nextDraw_smAt, State.setSm_smAt_self]

/-! ## The reset pole (R237) -/

/-- Multiplying an infinity by 1 changes nothing. -/
theorem fmul_inf_fOne (q : Word) {x : F32} (hx : isInf x = true) : fmul q x fOne = x := by
  have hsign : (signBit x != signBit fOne) = signBit x := Bool.xor_false _
  rw [fmul_inf_left q hx rfl, if_neg (by decide), hsign, fInf_signBit hx]

/-- With the pole at `+0` and its complement at 1 the recurrence forgets a finite `z`. -/
theorem feq_onePole_reset (q : Nat → Word) {x z : F32} (hz : isFinite z = true)
    (hx : isNaN x = false) : feq (onePole q fZero fOne x z) x = true := by
  have hrest : isZero (fmul (q 1) z fZero) = true := isZero_fmul (q 1) hz rfl
  rcases float_cases x with hnan | hinf | hfin
  · exact absurd hnan (by simp [hx])
  · rw [onePole, fmul_inf_fOne _ hinf, fadd_inf_finite _ hinf (isFinite_of_isZero hrest)]
    exact feq_refl hx
  · rw [onePole, fmul_fOne _ hfin]
    exact (fadd_zero_exactly (q 2) hfin hrest).feq hfin

/-- Settles O50: the ramp is the target, and so is what SNAP replaces it with. -/
theorem unconfiguredSmoother : Obligations.UnconfiguredSmoother := by
  intro i v x s h ha hb hz hx
  obtain ⟨q, ramp, zn, t, hexec, -, -, hramp, hzn, hself, hans⟩ := smProcessEffect i v x s h
  rw [ha, hb] at hramp
  have hpass : feq ramp x = true := hramp ▸ feq_onePole_reset q hz hx
  refine ⟨t, zn, hexec, hans, ?_, by rw [hself]⟩
  rw [hzn]
  split_ifs
  · exact feq_refl hx
  · exact hpass

end Machine
end Sys2Proof
end

section
/-! PROOFS. APF.PROCESS and COMB.PROCESS (44_delay_lines.md R247 to R258): both read a sample, write the
input with the sample fed back, and answer; and the two ends of the wet and dry mix. -/

namespace Sys2Proof
namespace Machine

variable {P : Params}

/-! ## The state after a delay-line command -/

/-- The state after APF.PROCESS or COMB.PROCESS: `v` is written to buffer `r`, the answer is `y`,
`F_DELAY` is raised if `late` and `F_GAIN` if `hot`. -/
def State.fedBack (s : State P) (i : Instr) (r : Fin P.nRB) (v y : F32) (late hot : Bool) : State P :=
  respond (commandWord i) [y]
    (((s.setRb r ((s.rbAt r).written v)).flagIf late .fDelay).flagIf hot .fGain).nextDraw

section
variable (s : State P) (i : Instr) (r : Fin P.nRB) (v y : F32) (late hot : Bool)

theorem State.fedBack_sameBut :
    SameBut [.rb, .status, .rspOut, .draw] s (s.fedBack i r v y late hot) := by
  unfold State.fedBack
  constructor <;> simp

theorem State.fedBack_wroteTo (hi : (s.rbAt r).Inv P) (hv : (s.rbAt r).valid = true) :
    WroteTo (s.rbAt r) ((s.fedBack i r v y late hot).rbAt r) v := by
  have hself : (s.fedBack i r v y late hot).rbAt r = (s.rbAt r).written v := by
    simp [State.fedBack]
  rw [hself]
  exact RbInst.wroteTo hi hv v

theorem State.fedBack_rbAt_ne {j : Fin P.nRB} (h : j ≠ r) :
    (s.fedBack i r v y late hot).rbAt j = s.rbAt j :=
  s.setRb_rbAt_ne _ h.symm

theorem State.fedBack_status :
    (s.fedBack i r v y late hot).status = s.status ||| raised late .fDelay ||| raised hot .fGain := by
  rw [State.fedBack, respond_status, State.nextDraw_status, State.flagIf_status_raised,
    State.flagIf_status_raised, State.setRb_status]

theorem State.fedBack_answered : Answered i [y] s (s.fedBack i r v y late hot) :=
  respond_answered i [y] s _ rfl

end

/-! ## The commands -/

section
variable (i : Inst) (v : ApfVar) (p : Policy) (x d g m : F32) {s : State}
  (h : i.toNat < thisHardware.nRB)

/-- What APF.PROCESS leaves, the delayed sample in the words of Safety.lean (R250). -/
theorem exec_apfProcess (hi : (s.rbAt ⟨i.toNat, h⟩).Inv thisHardware)
    (hv : (s.rbAt ⟨i.toNat, h⟩).valid = true) {y : F32}
    (hy : y = (s.rbAt ⟨i.toNat, h⟩).readAt s.draws (splitDelay (s.draws 31) d).n
      (splitDelay (s.draws 31) d).f p) :
    exec (.apfProcess i v p x d g) s = .next (s.fedBack (.apfProcess i v p x d g) ⟨i.toNat, h⟩
      (feedbackInput (drawsFrom s.draws 40) x y g) (apfOut (drawsFrom s.draws 32) v y x g)
      (realDelayBeyond (s.rbAt ⟨i.toNat, h⟩) (splitDelay (s.draws 31) d)) (gainOutOfRange g)) := by
  rw [hy, ← RbInst.fractional_eq hi hv]
  exact execApfProcess_ok h hi hv v p x d g

/-- What COMB.PROCESS leaves, the delayed sample in the words of Safety.lean (R258). -/
theorem exec_combProcess (hi : (s.rbAt ⟨i.toNat, h⟩).Inv thisHardware)
    (hv : (s.rbAt ⟨i.toNat, h⟩).valid = true) {y : F32}
    (hy : y = (s.rbAt ⟨i.toNat, h⟩).readAt s.draws (splitDelay (s.draws 31) d).n
      (splitDelay (s.draws 31) d).f p) :
    exec (.combProcess i p x d g m) s = .next (s.fedBack (.combProcess i p x d g m) ⟨i.toNat, h⟩
      (feedbackInput (drawsFrom s.draws 40) x y g) (mixOut (drawsFrom s.draws 32) y x m)
      (realDelayBeyond (s.rbAt ⟨i.toNat, h⟩) (splitDelay (s.draws 31) d)) (gainOutOfRange g)) := by
  rw [hy, ← RbInst.fractional_eq hi hv]
  exact execCombProcess_ok h hi hv p x d g m

end

/-- Settles O51: the free words of the read, of the output and of the written value are three stretches
of one draw. -/
theorem apfProcessEffect : Obligations.ApfProcessEffect := by
  intro i v p x d g s h hs
  refine ⟨fun hv => ?_, fun hv => refused_of_eq (execApfProcess_nobuf h hv v p x d g)⟩
  refine ⟨s.draws, drawsFrom s.draws 32, drawsFrom s.draws 40, _, _,
    exec_apfProcess i v p x d g h (hs.rb _) hv rfl, State.fedBack_sameBut .., rfl,
    State.fedBack_wroteTo _ _ _ _ _ _ _ (hs.rb _) hv,
    fun j hj => State.fedBack_rbAt_ne _ _ _ _ _ _ _ hj, State.fedBack_status .., ?_⟩
  cases v with
  | schroeder => exact State.fedBack_answered ..
  | gerzon => exact State.fedBack_answered ..

/-- Settles O52: the free words of the read, of the mix and of the written value are three stretches of
one draw. -/
theorem combProcessEffect : Obligations.CombProcessEffect := by
  intro i p x d g m s h hs
  refine ⟨fun hv => ?_, fun hv => refused_of_eq (execCombProcess_nobuf h hv p x d g m)⟩
  exact ⟨s.draws, drawsFrom s.draws 32, drawsFrom s.draws 40, _, _,
    exec_combProcess i p x d g m h (hs.rb _) hv rfl, State.fedBack_sameBut .., rfl,
    State.fedBack_wroteTo _ _ _ _ _ _ _ (hs.rb _) hv,
    fun j hj => State.fedBack_rbAt_ne _ _ _ _ _ _ _ hj, State.fedBack_status ..,
    State.fedBack_answered ..⟩

/-! ## The ends of the mix (R258) -/

section
variable (q : Word) {x z : F32}

/-- A number is an infinity or finite. -/
theorem isInf_or_isFinite (hx : isNaN x = false) : isInf x = true ∨ isFinite x = true :=
  (float_cases x).resolve_left (by simp [hx])

theorem fOne_sub_fOne : fsub q fOne fOne = fZero := by
  rw [fsub, fadd_of_isFinite q rfl rfl]
  decide

/-- Multiplying by 1 changes no number, an infinity included. -/
theorem fmul_fOne_of_not_isNaN (hx : isNaN x = false) : fmul q x fOne = x := by
  rcases isInf_or_isFinite hx with hinf | hfin
  · exact fmul_inf_fOne q hinf
  · exact fmul_fOne q hfin

theorem feq_fadd_zero (hx : isNaN x = false) (hz : isZero z = true) :
    feq (fadd q x z) x = true := by
  rcases isInf_or_isFinite hx with hinf | hfin
  · rw [fadd_inf_finite q hinf (isFinite_of_isZero hz)]
    exact feq_refl hx
  · exact (fadd_zero_exactly q hfin hz).feq hfin

theorem feq_zero_fadd (hz : isZero z = true) (hx : isNaN x = false) :
    feq (fadd q z x) x = true := by
  rcases isInf_or_isFinite hx with hinf | hfin
  · rw [fadd_finite_inf q (isFinite_of_isZero hz) hinf]
    exact feq_refl hx
  · exact (zero_fadd_exactly q hz hfin).feq hfin

end

section
variable (q : Nat → Word) (wet dry : F32)

/-- At 1 the dry value's weight is `+0`. -/
theorem mixOut_fOne (hw : isNaN wet = false) :
    mixOut q wet dry fOne = fadd (q 3) wet (fmul (q 2) dry fZero) := by
  rw [mixOut, fOne_sub_fOne, fmul_fOne_of_not_isNaN _ hw]

/-- At `+0` the dry value's weight is 1. -/
theorem mixOut_fZero (hd : isNaN dry = false) :
    mixOut q wet dry fZero = fadd (q 3) (fmul (q 0) wet fZero) dry := by
  rw [mixOut, fOne_sub_fZero, fmul_fOne_of_not_isNaN _ hd]

end

/-- Settles O53: the other value's product is a zero, for that value is finite, and adding a zero
changes no number. -/
theorem mixEnds : Obligations.MixEnds := by
  intro q wet dry
  refine ⟨fun hd hw => ?_, fun hw hd => ?_⟩
  · exact mixOut_fOne q wet dry hw ▸ feq_fadd_zero (q 3) hw (isZero_fmul (q 2) hd rfl)
  · exact mixOut_fZero q wet dry hd ▸ feq_zero_fadd (q 3) (isZero_fmul (q 0) hw rfl) hd

end Machine
end Sys2Proof
end

section
/-! PROOFS. FDN, the feedback delay network (45_fdn.md): the commands that set its registers (R270 to
R275) and FDN.STEP (R278 to R287), each from the equation of its answer. -/

namespace Sys2Proof
namespace Machine

variable {P : Params}

/-! ## A command that sets registers of one network -/

/-- The state after FDN.BIND, FDN.SETLEN, FDN.SETROT or FDN.SETGAIN: the registers of network `r` are
`x`. -/
def State.networkSet (s : State P) (i : Instr) (r : Fin P.nFDN) (x : FdnInst) : State P :=
  respond (commandWord i) [] (s.setFdn r x)

section
variable (s : State P) (i : Instr) (r : Fin P.nFDN) (x : FdnInst)

theorem State.networkSet_sameBut : SameBut [.fdn, .rspOut] s (s.networkSet i r x) := by
  unfold State.networkSet
  constructor <;> simp

theorem State.networkSet_fdnAt_self : (s.networkSet i r x).fdnAt r = x :=
  s.setFdn_fdnAt_self r x

theorem State.networkSet_fdnAt_ne {j : Fin P.nFDN} (h : j ≠ r) :
    (s.networkSet i r x).fdnAt j = s.fdnAt j :=
  s.setFdn_fdnAt_ne x h.symm

theorem State.networkSet_answered : Answered i [] s (s.networkSet i r x) :=
  respond_answered i [] s _ rfl

/-- What R272, R273 and R275 say of a command that sets registers, given the equation of its answer. -/
theorem networkSet_effect {res : Result P} (he : res = .next (s.networkSet i r x)) :
    ∃ t, res = .next t ∧ SameBut [.fdn, .rspOut] s t ∧ (∀ j, j ≠ r → t.fdnAt j = s.fdnAt j) ∧
      t.fdnAt r = x ∧ Answered i [] s t :=
  ⟨_, he, s.networkSet_sameBut i r x, fun _ => s.networkSet_fdnAt_ne i r x,
    s.networkSet_fdnAt_self i r x, s.networkSet_answered i r x⟩

end

/-- Settles O55: SETDAMP alone computes, and so alone draws. -/
theorem fdnParameterEffects : Obligations.FdnParameterEffects := by
  intro i s h
  refine ⟨fun l0 l1 l2 l3 => networkSet_effect _ _ _ _ (execFdnSetlen_ok h l0 l1 l2 l3),
    fun c sn => networkSet_effect _ _ _ _ (execFdnSetrot_ok h c sn), fun a => ?_,
    fun g0 g1 g2 g3 w0 w1 w2 w3 =>
      networkSet_effect _ _ _ _ (execFdnSetgain_ok h g0 g1 g2 g3 w0 w1 w2 w3)⟩
  exact ⟨s.draws 0, _, execFdnSetdamp_ok h a, by constructor <;> simp,
    fun j hj => s.setFdn_fdnAt_ne _ hj.symm, s.setFdn_fdnAt_self _ _, respond_answered _ _ _ _ rfl⟩

/-! ## FDN.BIND -/

/-- An RB instance number fits the 8 bits of a line register (R50). -/
theorem toNat_setWidth_of_lt_nRB {r : Word} (h : r.toNat < P.nRB) :
    (r.setWidth 8).toNat = r.toNat := by
  have hmax := P.nRB_bounds
  rw [BitVec.toNat_setWidth]
  exact Nat.mod_eq_of_lt (by omega)

theorem bindOperandsOk_iff {r0 r1 r2 r3 : Word} :
    (bindOperandOk P r0 && bindOperandOk P r1 && bindOperandOk P r2 && bindOperandOk P r3) = true ↔
      r0.toNat < P.nRB ∧ r1.toNat < P.nRB ∧ r2.toNat < P.nRB ∧ r3.toNat < P.nRB := by
  simp only [bindOperandOk, Bool.and_eq_true, decide_eq_true_iff, and_assoc]

/-- An operand of FDN.BIND that is no RB instance (R94). -/
theorem execFdnBind_inst {i : Inst} {s : State P} (h : i.toNat < P.nFDN) {r0 r1 r2 r3 : Word}
    (hb : ¬ (bindOperandOk P r0 && bindOperandOk P r1 && bindOperandOk P r2 && bindOperandOk P r3)
      = true) :
    execFdnBind i r0 r1 r2 r3 s =
      .next (refuse (commandWord (.fdnBind i r0 r1 r2 r3)) .eInst s) := by
  simp only [execFdnBind]
  rw [withInst_ok h, if_neg hb]

/-- Settles O54. -/
theorem fdnBindEffect : Obligations.FdnBindEffect := by
  intro i r0 r1 r2 r3 s h
  refine ⟨fun hr => ?_, fun hr => refused_of_eq (execFdnBind_inst h (mt bindOperandsOk_iff.1 hr))⟩
  have hb := bindOperandsOk_iff.2 hr
  refine ⟨fun hm => ?_, fun hm => refused_of_eq (execFdnBind_mode h (s.mode_ne_prepare hm) hb)⟩
  obtain ⟨h0, h1, h2, h3⟩ := hr
  refine ⟨s.networkSet _ _ _, execFdnBind_ok h hm hb, s.networkSet_sameBut _ _ _,
    fun j => s.networkSet_fdnAt_ne _ _ _, ?_, ?_, s.networkSet_answered _ _ _⟩
  · rw [State.networkSet_fdnAt_self]
  · rw [State.networkSet_fdnAt_self]
    rw [← toNat_setWidth_of_lt_nRB h0, ← toNat_setWidth_of_lt_nRB h1,
      ← toNat_setWidth_of_lt_nRB h2, ← toNat_setWidth_of_lt_nRB h3]
    rfl

/-! ## FDN.STEP: the state it leaves -/

/-- The state after FDN.STEP: `x` is written to the lines `l` in order, the registers of network `r`
are `g`, the answer is `y`, `F_DELAY` is raised if `late` and `F_GAIN` if `hot`. -/
def State.networkStepped (s : State P) (i : Instr) (r : Fin P.nFDN) (l : Vector (Fin P.nRB) 4)
    (x : Vector F32 4) (g : FdnInst) (y : F32) (late hot : Bool) : State P :=
  respond (commandWord i) [y]
    ((((s.writeFour l x).setFdn r g).flagIf late .fDelay).flagIf hot .fGain).nextDraw

section
variable (s : State P) (i : Instr) (r : Fin P.nFDN) (l : Vector (Fin P.nRB) 4) (x : Vector F32 4)
  (g : FdnInst) (y : F32) (late hot : Bool)

theorem State.networkStepped_sameBut :
    SameBut [.rb, .fdn, .status, .rspOut, .draw] s (s.networkStepped i r l x g y late hot) := by
  unfold State.networkStepped State.writeFour State.writeTo
  constructor <;> simp

theorem State.networkStepped_fdnAt_self : (s.networkStepped i r l x g y late hot).fdnAt r = g :=
  State.setFdn_fdnAt_self _ r g

theorem State.networkStepped_fdnAt_ne {j : Fin P.nFDN} (h : j ≠ r) :
    (s.networkStepped i r l x g y late hot).fdnAt j = s.fdnAt j :=
  State.setFdn_fdnAt_ne _ g h.symm

theorem State.networkStepped_status : (s.networkStepped i r l x g y late hot).status =
    s.status ||| raised late .fDelay ||| raised hot .fGain := by
  rw [State.networkStepped, respond_status, State.nextDraw_status, State.flagIf_status_raised,
    State.flagIf_status_raised]
  rfl

theorem State.networkStepped_answered :
    Answered i [y] s (s.networkStepped i r l x g y late hot) :=
  respond_answered i [y] s _ rfl

end

/-! ## FDN.STEP: the four lines -/

theorem perLine_getElem {α : Type} (g : Fin 4 → α) (k : Fin 4) : (perLine g)[k] = g k := by
  fin_cases k <;> rfl

/-- The lines of a network by the numbers in its line registers. -/
theorem FdnInst.lines_eq_perLine {f : FdnInst} (hf : f.Inv P) {L : Fin 4 → Fin P.nRB}
    (hL : ∀ k : Fin 4, f.line[k].toNat = (L k).val) : f.lines hf = perLine L := by
  have hline (k : Fin 4) : f.lineAt hf k = L k := Fin.ext (hL k)
  simp only [FdnInst.lines, perLine, hline]

/-- The four taps of the lines `L`, by arithmetic. -/
def State.networkTaps (s : State P) (f : FdnInst) (L : Fin 4 → Fin P.nRB) : Vector F32 4 :=
  perLine fun k => (s.rbAt (L k)).sampleAt f.len[k]

/-- The buffers of the lines `L` can be read and written: they are valid, and every buffer meets the
invariant. -/
structure LinesReady (s : State P) (L : Fin 4 → Fin P.nRB) : Prop where
  inv   : ∀ j, (s.rbAt j).Inv P
  valid : ∀ k, (s.rbAt (L k)).valid = true

section
variable {s : State P} {L : Fin 4 → Fin P.nRB}

theorem LinesReady.valid_perLine (h : LinesReady s L) (k : Fin 4) :
    (s.rbAt (perLine L)[k]).valid = true := by
  rw [perLine_getElem]
  exact h.valid k

/-- R278 step (1). -/
theorem LinesReady.tapsOf_eq (h : LinesReady s L) (f : FdnInst) :
    tapsOf s f (perLine L) = s.networkTaps f L := by
  have htap (k : Fin 4) : (s.rbAt (L k)).delayed f.len[k] = (s.rbAt (L k)).sampleAt f.len[k] :=
    RbInst.delayed_eq (h.inv _) (h.valid k) _
  simp only [State.networkTaps, perLine, ← htap]
  rfl

theorem LinesReady.wroteAt (h : LinesReady s L) (k : Fin 4) (v : F32) :
    WroteAt (L k) v s (s.writeTo (L k) v) :=
  State.wroteAt (h.inv _) (h.valid k) v

/-- After a write to one line all four can still be written, also where they share the buffer. -/
theorem LinesReady.writeTo (h : LinesReady s L) (k : Fin 4) (v : F32) :
    LinesReady (s.writeTo (L k) v) L where
  inv := State.writeTo_inv h.inv (h.valid k) v
  valid m := by
    rw [State.writeTo_valid]
    exact h.valid m

/-- The four writes, one after another (R278 step (5)). -/
theorem LinesReady.writeFour_wroteAt (h : LinesReady s L) (x : Vector F32 4) :
    ∃ s1 s2 s3, WroteAt (L 0) x[0] s s1 ∧ WroteAt (L 1) x[1] s1 s2 ∧ WroteAt (L 2) x[2] s2 s3 ∧
      WroteAt (L 3) x[3] s3 (s.writeFour (perLine L) x) := by
  have h1 := h.writeTo 0 x[0]
  have h2 := h1.writeTo 1 x[1]
  have h3 := h2.writeTo 2 x[2]
  exact ⟨_, _, _, h.wroteAt 0 _, h1.wroteAt 1 _, h2.wroteAt 2 _, h3.wroteAt 3 _⟩

/-- The `F_DELAY` condition: some length is at or above its line's capacity (R280). -/
theorem tapsBeyond_perLine (s : State P) (f : FdnInst) (L : Fin 4 → Fin P.nRB) :
    tapsBeyond s f (perLine L) =
      decide (∃ k : Fin 4, (s.rbAt (L k)).capacity.toNat ≤ f.len[k].toNat) := by
  rw [Bool.eq_iff_iff, decide_eq_true_iff]
  simp only [tapsBeyond, delayBeyond, Bool.or_eq_true, decide_eq_true_iff, or_assoc,
    Fin.exists_fin_succ, IsEmpty.exists_iff, or_false]
  rfl

end

/-! ## FDN.STEP: the values -/

/-- The free words of one FDN.STEP by what they are for: the four rotations, the damping, the decay, the
line inputs, the wet sum (its four products, then its three sums) and the mix. -/
def stepDraws (q : Nat → Word) : Nat → Nat → Word
  | 0 => q
  | 1 => drawsFrom q 6
  | 2 => drawsFrom q 12
  | 3 => drawsFrom q 18
  | 4 => drawsFrom q 24
  | 5 => drawsFrom q 36
  | 6 => drawsFrom q 40
  | 7 => fun k => q (48 + [0, 1, 3, 5, 2, 4, 6].getD k 0)
  | _ => drawsFrom q 55

/-- The first layer of rotations: the pairs (0,1) and (2,3) (R281). -/
def rotatePairs (q : Nat → Word) (c s : F32) (t : Vector F32 4) : Vector F32 4 :=
  let u01 := rot q c s t[0] t[1]
  let u23 := rot (drawsFrom q 6) c s t[2] t[3]
  #v[u01.1, u01.2, u23.1, u23.2]

/-- R281, the first layer. -/
theorem rotatePairs_values (q : Nat → Word) (c r : F32) (t : Vector F32 4) :
    let u := rotatePairs q c r t
    u[0] = fsub (q 2) (fmul (q 0) c t[0]) (fmul (q 1) r t[1]) ∧
    u[1] = fadd (q 5) (fmul (q 3) r t[0]) (fmul (q 4) c t[1]) ∧
    u[2] = fsub (q 8) (fmul (q 6) c t[2]) (fmul (q 7) r t[3]) ∧
    u[3] = fadd (q 11) (fmul (q 9) r t[2]) (fmul (q 10) c t[3]) := by
  simp [rotatePairs, rot, drawsFrom]

/-- R281, the second layer: the pairs (0,2) and (1,3) of what the first left. -/
theorem rotateTaps_values (q : Nat → Word) (c r : F32) (t : Vector F32 4) :
    let u := rotatePairs q c r t
    let v := rotateTaps q c r t
    v[0] = fsub (q 14) (fmul (q 12) c u[0]) (fmul (q 13) r u[2]) ∧
    v[2] = fadd (q 17) (fmul (q 15) r u[0]) (fmul (q 16) c u[2]) ∧
    v[1] = fsub (q 20) (fmul (q 18) c u[1]) (fmul (q 19) r u[3]) ∧
    v[3] = fadd (q 23) (fmul (q 21) r u[1]) (fmul (q 22) c u[3]) := by
  simp [rotateTaps, rotatePairs, rot, drawsFrom]

section
variable (q : Nat → Word) (f : FdnInst) (k : Fin 4)

/-- R282. -/
theorem dampTaps_getElem (v : Vector F32 4) : (dampTaps q f v)[k] =
    fadd (stepDraws q 4 (3 * k + 2)) (fmul (stepDraws q 4 (3 * k)) v[k] f.dampB)
      (fmul (stepDraws q 4 (3 * k + 1)) f.dz[k] f.dampA) :=
  perLine_getElem _ k

/-- R283, the feedback registers. -/
theorem feedbackRegs_getElem (d : F32) (dz : Vector F32 4) :
    (feedbackRegs q d dz)[k] = fmul (stepDraws q 5 k) d dz[k] :=
  perLine_getElem _ k

/-- R283, the line inputs. -/
theorem lineInputs_getElem (x : F32) (fb : Vector F32 4) : (lineInputs q f x fb)[k] =
    fadd (stepDraws q 6 (2 * k + 1)) (fmul (stepDraws q 6 (2 * k)) f.inGain[k] x) fb[k] := by
  have hplace : 41 + 2 * k.val = 40 + (2 * k.val + 1) := by omega
  refine (perLine_getElem _ k).trans ?_
  rw [hplace]
  rfl

end

/-- What FDN.STEP leaves, the lines and the taps in the words of Safety.lean (R278). -/
theorem execFdnStep_networkStepped {s : State P} {L : Fin 4 → Fin P.nRB} {i : Inst}
    (h : i.toNat < P.nFDN) (hf : (s.fdnAt ⟨i.toNat, h⟩).Inv P) (hr : LinesReady s L)
    (hb : (s.fdnAt ⟨i.toNat, h⟩).bound = true)
    (hL : ∀ k : Fin 4, (s.fdnAt ⟨i.toNat, h⟩).line[k].toNat = (L k).val) (x d m : F32) :
    let f := s.fdnAt ⟨i.toNat, h⟩
    let t := s.networkTaps f L
    let g := fdnAdvance s.draws d f t
    execFdnStep i x d m s = .next (s.networkStepped (.fdnStep i x d m) ⟨i.toNat, h⟩ (perLine L)
      (lineInputs s.draws f x g.fb) g (mixOut (drawsFrom s.draws 55) (wetSum s.draws f t) x m)
      (decide (∃ k : Fin 4, (s.rbAt (L k)).capacity.toNat ≤ f.len[k].toNat)) (gainOutOfRange d)) := by
  intro f t g
  have hlines := FdnInst.lines_eq_perLine hf hL
  have hexec := execFdnStep_ok h hr.inv hf hb (by rw [hlines]; exact hr.valid_perLine) x d m
  simp only [hlines, hr.tapsOf_eq, tapsBeyond_perLine] at hexec
  exact hexec

/-- Settles O56: the taps, the two layers of rotations and the values of each line are those of the
command's equation, with every NaN from one draw; the four writes follow one another. -/
theorem fdnStepEffect : Obligations.FdnStepEffect := by
  intro i x d m s h hs
  have hf := hs.fdn ⟨i.toNat, h⟩
  refine ⟨fun L hL hb hv => ?_,
    fun hr => refused_of_eq (execFdnStep_notReady h hf (Bool.eq_false_iff.1 hr) x d m)⟩
  have hready : LinesReady s L := ⟨hs.rb, hv⟩
  let f := s.fdnAt ⟨i.toNat, h⟩
  let t := s.networkTaps f L
  let g := fdnAdvance s.draws d f t
  obtain ⟨s1, s2, s3, h0, h1, h2, h3⟩ :=
    hready.writeFour_wroteAt (lineInputs s.draws f x g.fb)
  obtain ⟨u0, u1, u2, u3⟩ := rotatePairs_values s.draws f.cosT f.sinT t
  obtain ⟨v0, v2, v1, v3⟩ := rotateTaps_values s.draws f.cosT f.sinT t
  exact ⟨stepDraws s.draws, fun k => (rotatePairs s.draws f.cosT f.sinT t)[k],
    fun k => (rotateTaps s.draws f.cosT f.sinT t)[k], fun k => g.dz[k], fun k => g.fb[k],
    fun k => (lineInputs s.draws f x g.fb)[k], wetSum s.draws f t, s1, s2, s3, _, _,
    execFdnStep_networkStepped h hf hready hb hL x d m, State.networkStepped_sameBut ..,
    u0, u1, u2, u3, v0, v2, v1, v3, fun k => dampTaps_getElem ..,
    fun k => feedbackRegs_getElem .., fun k => lineInputs_getElem .., rfl, h0, h1, h2, h3, rfl,
    fun j hj => State.networkStepped_fdnAt_ne _ _ _ _ _ _ _ _ _ hj,
    State.networkStepped_fdnAt_self .., State.networkStepped_status ..,
    State.networkStepped_answered ..⟩

end Machine
end Sys2Proof
end

section
/-! PROOFS. SYS.RESET, SYS.PREPARE, SYS.START and SYS.CLRSTATUS (46_system.md R301 to R303, R305),
none of which has a result word. -/

namespace Sys2Proof
namespace Machine

variable {P : Params}

/-! ## The answer of a command without results (R100) -/

/-- Where no instance is named such an answer is one header with the opcode in it: no operand is seen. -/
theorem acceptedPacket_nil_of_opcode {i : Instr} {o : Opcode} (ho : i.opcode = o)
    (hi : i.inst = 0) : acceptedPacket (commandWord i) [] = [o.code ++ (0 : BitVec 24)] := by
  rw [acceptedPacket, headerWord, opcOf_commandWord, instOf_commandWord, ho, hi]
  cases o <;> rfl

theorem acceptedPacket_sysReset :
    acceptedPacket (commandWord .sysReset) [] = [0x01000000] :=
  acceptedPacket_nil_of_opcode (o := .sysReset) rfl rfl

theorem acceptedPacket_sysPrepare :
    acceptedPacket (commandWord .sysPrepare) [] = [0x02000000] :=
  acceptedPacket_nil_of_opcode (o := .sysPrepare) rfl rfl

theorem acceptedPacket_sysStart :
    acceptedPacket (commandWord .sysStart) [] = [0x03000000] :=
  acceptedPacket_nil_of_opcode (o := .sysStart) rfl rfl

theorem acceptedPacket_sysClrstatus (m : Word) :
    acceptedPacket (commandWord (.sysClrstatus m)) [] = [0x05000000] :=
  acceptedPacket_nil_of_opcode (o := .sysClrstatus) rfl rfl

/-! ## Reset -/

theorem resetState_atReset (s : State P) : AtReset (resetState s) :=
  { State.resetFor_atReset with }

/-- R65 has no row for the response stream. -/
theorem AtReset.respond {s : State P} (h : AtReset s) (w : Word) (l : List Word) :
    AtReset (respond w l s) := { h with }

/-- Settles O15. -/
theorem sysResetEffect : Obligations.SysResetEffect := by
  intro s
  refine ⟨_, execSysReset_eq s, (resetState_atReset s).respond _ _, ?_, resetState_cmdIn s,
    resetState_rstN s⟩
  rw [respond_rspOut, resetState_rspOut, acceptedPacket_sysReset]

/-! ## The mode -/

theorem respond_setMode_sameBut (w : Word) (l : List Word) (s : State P) (m : Mode) :
    SameBut [.mode, .rspOut] s (respond w l (s.setMode m)) := by
  constructor <;> simp

/-- Settles O16. -/
theorem modeCommandsEffect : Obligations.ModeCommandsEffect := by
  intro s
  constructor
  case left =>
    refine ⟨_, execSysPrepare_eq s, respond_setMode_sameBut _ _ s .prepare, rfl, ?_⟩
    rw [respond_rspOut, State.setMode_rspOut, acceptedPacket_sysPrepare]
  case right =>
    refine ⟨_, execSysStart_eq s, respond_setMode_sameBut _ _ s .run, rfl, ?_⟩
    rw [respond_rspOut, State.setMode_rspOut, acceptedPacket_sysStart]

/-! ## The flags and the error record (R305) -/

theorem clearStatus_status_getLsbD (m : Word) (s : State P) {b : Nat} (hb : b < 5) :
    (clearStatus m s).status.getLsbD b = (s.status.getLsbD b && !m.getLsbD b) := by
  rw [clearStatus_status, BitVec.getLsbD_and, BitVec.getLsbD_not, BitVec.getLsbD_setWidth,
    decide_eq_true hb, Bool.true_and, Bool.true_and]

theorem clearStatus_record_of_set {m : Word} (s : State P) (hm : m.getLsbD 4 = true) :
    (clearStatus m s).errInfo = 0 ∧ (clearStatus m s).errCode = 0 := by
  rw [clearStatus, if_pos hm]
  exact ⟨rfl, rfl⟩

theorem clearStatus_record_of_clear {m : Word} (s : State P) (hm : m.getLsbD 4 = false) :
    (clearStatus m s).errInfo = s.errInfo ∧ (clearStatus m s).errCode = s.errCode := by
  rw [clearStatus, if_neg (Bool.eq_false_iff.1 hm)]
  exact ⟨rfl, rfl⟩

/-- Beside the flags and the record, both branches of `clearStatus` leave every part as it is. -/
theorem respond_clearStatus_sameBut (w : Word) (l : List Word) (m : Word) (s : State P) :
    SameBut [.status, .err, .rspOut] s (respond w l (clearStatus m s)) := by
  unfold clearStatus
  split_ifs
  case pos => constructor <;> simp
  case neg => constructor <;> simp

theorem clearStatus_rspOut (m : Word) (s : State P) : (clearStatus m s).rspOut = s.rspOut := by
  unfold clearStatus
  split_ifs <;> rfl

/-- Settles O18. -/
theorem clearStatusEffect : Obligations.ClearStatusEffect := by
  intro m s
  refine ⟨_, execSysClrstatus_eq m s, respond_clearStatus_sameBut _ _ m s,
    fun b hb => clearStatus_status_getLsbD m s hb, clearStatus_record_of_set s,
    clearStatus_record_of_clear s, ?_⟩
  rw [respond_rspOut, clearStatus_rspOut, acceptedPacket_sysClrstatus]

end Machine
end Sys2Proof
end

section
/-! PROOFS. Nothing stops the PDC: a command in range is accepted, or refused by the first of the
checks that fails (60_exceptions.md R320, R322, R324), and so the machine always goes on
(70_reset_and_hazards.md R373). Which commands the checks of the mode and the buffers can refuse
(R341, R347). -/

namespace Sys2Proof
namespace Machine

variable {P : Params} {i : Instr}

/-! ## The two answers of a command -/

/-- The answer of a command in range, by what its checks name. -/
theorem exec_cases {s : State} (hwf : i.wf = true) (hs : s.Inv) :
    (∃ e, refusalOf s i = some e ∧ exec i s = .next (refuse (commandWord i) e s)) ∨
      (refusalOf s i = none ∧ ∃ t l, exec i s = .next (respond (commandWord i) l t) ∧
        t.rspOut = s.rspOut ∧ l.length = resultCount i) := by
  have hcompletes := exec_completes hwf hs
  generalize exec i s = r at hcompletes
  cases hcompletes with
  | refused he => exact .inl ⟨_, he, rfl⟩
  | accepted hnone ht hl => exact .inr ⟨hnone, _, _, rfl, ht, hl⟩

/-- A command that no check refuses is answered with its results. -/
theorem exec_answered_of_no_refusal {s : State} (hwf : i.wf = true) (hs : s.Inv)
    (hnone : refusalOf s i = none) :
    ∃ t l, exec i s = .next t ∧ Answered i l s t ∧ l.length = resultCount i := by
  obtain ⟨e, he, -⟩ | ⟨-, t, l, hr, ht, hl⟩ := exec_cases hwf hs
  · rw [hnone] at he
    cases he
  · exact ⟨_, l, hr, respond_answered i l s t ht, hl⟩

/-- Settles O9. -/
theorem acceptedOrRefusedAsChecked : Obligations.AcceptedOrRefusedAsChecked := by
  intro i s hwf hs
  cases hchecks : refusalOf s i with
  | none =>
    obtain ⟨t, l, hr, hanswer, hl⟩ := exec_answered_of_no_refusal hwf hs hchecks
    exact ⟨t, hr, l, hl, hanswer⟩
  | some e =>
    obtain ⟨e', he, hr⟩ | ⟨hnone, -⟩ := exec_cases hwf hs
    · obtain rfl : e = e' := Option.some.inj (hchecks.symm.trans he)
      exact ⟨_, hr, refuse_refusedAs _ _ s⟩
    · rw [hchecks] at hnone
      cases hnone

/-- Settles O12: a hard reset and an open packet have a next state by definition, and a complete packet
is answered or refused. -/
theorem stepNeverStops : Obligations.StepNeverStops := by
  intro s hs
  cases hrst : s.rstN with
  | false => exact ⟨_, stepWith_reset hrst⟩
  | true =>
    cases hr : receive s.pkt s.cmdIn with
    | waiting b => exact ⟨_, stepWith_waiting hrst hr⟩
    | packet w args rest =>
      obtain ⟨_, _, _, -, -, -, -, hstep⟩ | ⟨_, -, hstep⟩ := step_packet_cases hs hrst hr
      · exact ⟨_, hstep⟩
      · exact ⟨_, hstep⟩

/-! ## The check of the mode (R341) -/

/-- `E_MODE` is named only where the check of the mode fails: no later check names it. -/
theorem refusalOf_ne_eMode {s : State P} (hp : prepareOnly i = false ∨ s.mode = .prepare) :
    refusalOf s i ≠ some .eMode := by
  rw [refusalOf, if_neg (not_refused_by_mode hp)]
  split_ifs <;> decide

theorem CmdError.code_ne_eMode {e : CmdError} (h : e ≠ .eMode) : e.code ≠ CmdError.eMode.code := by
  cases e with
  | eMode => exact absurd rfl h
  | _ => decide

/-- Settles O20: the code in the header is that of the check that fails, or 0. -/
theorem prepareOnlyCommands : Obligations.PrepareOnlyCommands := by
  intro i s hwf hs
  refine ⟨fun ⟨hp, hrun⟩ => ?_, fun hp => ?_⟩
  · have hmode := refusalOf_mode hp (State.mode_ne_prepare hrun)
    obtain ⟨e, he, hr⟩ | ⟨hnone, -⟩ := exec_cases hwf hs
    · obtain rfl : e = .eMode := Option.some.inj (he.symm.trans hmode)
      exact refused_of_eq hr
    · rw [hmode] at hnone
      cases hnone
  · obtain ⟨e, he, hr⟩ | ⟨-, t, l, hr, ht, -⟩ := exec_cases hwf hs
    · have hne : e ≠ .eMode := fun h => refusalOf_ne_eMode hp (h ▸ he)
      refine ⟨_, _, [], hr, refuse_rspOut .., ?_⟩
      rw [errField_headerWord]
      exact CmdError.code_ne_eMode hne
    · refine ⟨_, _, l, hr, respond_answered i l s t ht, ?_⟩
      rw [errField_headerWord]
      decide

/-! ## The hot path (R347) -/

/-- The hot path is outside the checks of the mode and of the capacity. -/
theorem hotPath_unchecked (h : hotPath i = true) :
    prepareOnly i = false ∧ capacityFits i P = true := by
  cases i with
  | rbWrite | rbReadi | rbReadf | oscProcess | smProcess | apfProcess | combProcess | fdnStep =>
    exact ⟨rfl, rfl⟩
  | _ => exact absurd h Bool.false_ne_true

/-- Settles O23: the check of the buffers is the only one a hot-path command can fail. -/
theorem hotPathNeverRefused : Obligations.HotPathNeverRefused := by
  intro i s hot hwf hs hready
  obtain ⟨hp, hc⟩ := hotPath_unchecked hot
  exact exec_answered_of_no_refusal hwf hs (refusalOf_none (.inl hp) hready hc)

end Machine
end Sys2Proof
end

section
/-! PROOFS. Hard reset (70_reset_and_hazards.md R350), and what changes the mode (60_exceptions.md
R342). -/

namespace Sys2Proof
namespace Machine

variable {P : Params}

/-! ## Hard reset -/

theorem hardReset_atReset (s : State P) : AtReset (hardReset s) :=
  { resetState_atReset s with }

theorem cmdReady_of_rstN_low {s : State P} (h : s.rstN = false) : cmdReady s = false := h

theorem rspValid_of_rstN_low {s : State P} (h : s.rstN = false) : rspValid s = false := by
  rw [rspValid, h, Bool.false_and]

/-- Settles O14. -/
theorem hardResetEffect : Obligations.HardResetEffect := by
  intro s hrst
  have hlow : (hardReset s).rstN = false := hrst
  exact ⟨_, stepWith_reset hrst, hardReset_atReset s, rfl, cmdReady_of_rstN_low hlow,
    rspValid_of_rstN_low hlow, rfl, hlow⟩

/-! ## The mode -/

theorem clearStatus_mode (m : Word) (s : State P) : (clearStatus m s).mode = s.mode := by
  unfold clearStatus
  split_ifs <;> rfl

/-- The mode after a command: that of before, but for the three commands that write it (R342). -/
theorem Permitted.mode_cases {i : Instr} {s t : State P} (h : Permitted i s t) :
    t.mode = s.mode ∨ (i = .sysStart ∧ t.mode = .run) ∨
      ((i = .sysReset ∨ i = .sysPrepare) ∧ t.mode = .prepare) := by
  induction h with
  | start => exact .inl rfl
  | rb _ _ _ _ _ ih => exact ih
  | fd _ _ _ _ _ ih => exact ih
  | osc _ _ _ _ _ ih => exact ih
  | sm _ _ _ _ _ ih => exact ih
  | fdn _ _ _ _ _ _ ih => exact ih
  | mode m hi _ _ =>
    obtain ⟨hi, rfl⟩ | ⟨hi, rfl⟩ := hi
    · exact .inr (.inr ⟨.inr hi, rfl⟩)
    · exact .inr (.inl ⟨hi, rfl⟩)
  | flag _ _ _ _ ih => exact ih
  | draw _ ih => exact ih
  | answer _ _ _ ih => exact ih
  | refusal _ _ _ ih => rw [refuse_mode]; exact ih
  | clear _ _ _ ih => rw [clearStatus_mode]; exact ih
  | reset hi _ _ => exact .inr (.inr ⟨.inl hi, rfl⟩)

/-- What a step that runs SYS.START or SYS.PREPARE changes: the packet is taken, the mode written, the
response sent (R342). -/
theorem respond_setMode_afterPacket_sameBut (w : Word) (l rest : List Word) (s : State P) (m : Mode) :
    SameBut [.mode, .pkt, .cmdIn, .rspOut] s (respond w l ((s.afterPacket rest).setMode m)) := by
  constructor <;> simp [State.afterPacket]

theorem sameBut_of_sysStart {s t : State} {rest : List Word}
    (h : exec .sysStart (s.afterPacket rest) = .next t) :
    SameBut [.mode, .pkt, .cmdIn, .rspOut] s t := by
  cases h
  exact respond_setMode_afterPacket_sameBut _ _ rest s .run

theorem sameBut_of_sysPrepare {s t : State} {rest : List Word}
    (h : exec .sysPrepare (s.afterPacket rest) = .next t) :
    SameBut [.mode, .pkt, .cmdIn, .rspOut] s t := by
  cases h
  exact respond_setMode_afterPacket_sameBut _ _ rest s .prepare

/-- Everything that can happen to the mode in one step. -/
theorem step_mode_cases {s t : State} (hs : s.Inv) (hstep : step s = .next t) :
    t.mode = s.mode ∨
      (t.mode = .run ∧ nextCommand s = some .sysStart ∧
        SameBut [.mode, .pkt, .cmdIn, .rspOut] s t) ∨
      (t.mode = .prepare ∧ (s.rstN = false ∨ nextCommand s = some .sysReset ∨
        (nextCommand s = some .sysPrepare ∧ SameBut [.mode, .pkt, .cmdIn, .rspOut] s t))) := by
  obtain ⟨hrst, rfl⟩ | ⟨b, -, rfl⟩ | ⟨w, e, rest, rfl⟩ | ⟨i, rest, hi, he⟩ := step_cases hstep
  · exact .inr (.inr ⟨rfl, .inl hrst⟩)
  · exact .inl rfl
  · exact .inl (refuse_mode ..)
  · obtain hkept | ⟨rfl, hrun⟩ | ⟨rfl | rfl, hprepare⟩ :=
      (exec_permitted (hs.afterPacket rest) he).mode_cases
    · exact .inl hkept
    · exact .inr (.inl ⟨hrun, hi, sameBut_of_sysStart he⟩)
    · exact .inr (.inr ⟨hprepare, .inr (.inl hi)⟩)
    · exact .inr (.inr ⟨hprepare, .inr (.inr ⟨hi, sameBut_of_sysPrepare he⟩)⟩)

/-- Settles O19: a mode that differs from the one before excludes two of the three cases. -/
theorem modeTransitions : Obligations.ModeTransitions := by
  intro s t hs hstep
  have hcases := step_mode_cases hs hstep
  constructor
  case left =>
    intro hprepare hrun
    simpa [hprepare, hrun] using hcases
  case right =>
    intro hrun hprepare
    simpa [hprepare, hrun] using hcases

end Machine
end Sys2Proof
end
